-- ==== Sys2Proof/Word.lean ====
section
/-! DEFINITION. The machine's words: bytes, 32-bit layout words, 16-bit command words, slot indices and pads
(spec/00_scope.md R8, R9, R12, R13; spec/30_encoding.md R60). -/

namespace Sys2Proof

/-- `Byte`: an 8-bit unsigned value (R8, R14). -/
abbrev Byte := BitVec 8

/-- `Word32`: one word of a register layout, `WORD_BITS = 32` (R9). -/
abbrev Word32 := BitVec 32

/-- One harness command word, format CMD16 (R60). -/
abbrev Word16 := BitVec 16

/-- The index of a frame slot or of a layout slot; there are 16 of each (R13, R39). -/
abbrev SlotIdx := Fin 16

/-- `pad : Byte^8`, one byte for every payload lane (R12). -/
abbrev Pad := Vector Byte 8

end Sys2Proof
end

