-- ==== Sys2Proof/Config.lean ====
section
/-! DEFINITION. The implementation parameters of spec/00_scope.md section 4 and the one free value, the pad oracle. -/

namespace Sys2Proof

/-- The settings of the open parameter `DLC_ABOVE_8` (R11): what DECODE does with a data-length code of 9 to 15. The setting
in force is a field of State, so that both are modelled (log 4). -/
inductive DlcAbove8 where
  | clamp8   -- the code means 8 data bytes; the default
  | fault    -- DECODE raises DlcAboveEight
deriving DecidableEq, Repr

namespace Config

/-- The identity string of R2. -/
def identity : String := "can_frame_codec/ch32-can-rs-spec-v7/CAN2.0A+2.0B-classic"

/-- `STD_ID_BITS` (R6). -/
def stdIdBits : Nat := 11

/-- `EXT_ID_BITS` (R7). -/
def extIdBits : Nat := 29

/-- `MAX_DLC` (R8). -/
def maxDlc : Nat := 8

/-- THE FREE VALUE (R12, R29): the n-th pad the oracle supplies to the harness. It has no body, so no proof knows a byte
of it, and whatever is proved of an ENC holds for every pad (R90). DESIGN CHOICE, safe: log 1. -/
opaque padDraw : Nat → Pad

end Config
end Sys2Proof
end

