-- ==== Sys2Proof/Syntax.lean ====
section
/-! DEFINITION. Operand types (identifiers, frames, layouts), the ten instructions of spec/opcode_table.json, and what the
decoder is handed: a harness command word or a call at one of the codec's two ports. -/

namespace Sys2Proof

/-- An identifier, tagged by its kind (R18). The value is a Nat, so that one too wide for its kind can be written down. -/
inductive Identifier where
  | std (v : Nat)
  | ext (v : Nat)
deriving DecidableEq, Repr

/-- The identifier's tag (glossary, Kind). -/
inductive Kind where
  | standard
  | extended
deriving DecidableEq, Repr

/-- A CAN frame (R19). `payload` holds exactly the significant bytes, `payload[0]` first. -/
structure Frame where
  id : Identifier
  rtr : Bool
  dlc : Nat
  payload : List Byte
deriving DecidableEq, Repr

/-- A register layout: the ID, DT, DL and DH words (R24). -/
structure Layout where
  w0 : Word32
  w1 : Word32
  w2 : Word32
  w3 : Word32
deriving DecidableEq, Repr

/-- The four frame formats, selected by `{IDE, RTR}` (R56). -/
inductive Format where
  | stdData
  | stdRemote
  | extData
  | extRemote
deriving DecidableEq, Repr

/-- The instructions: one constructor per row of spec/opcode_table.json. The ENCODE rows are evaluations of the ENCODE port
on a frame of the row's kind and rtr, the DECODE rows evaluations of the DECODE port on a layout of the row's format
(R28, log 7). -/
inductive Instr where
  /-- `ENC L<d>, F<s>` (R72). -/
  | enc (d s : SlotIdx)
  /-- `DEC F<d>, L<s>` (R82). -/
  | dec (d s : SlotIdx)
  /-- ENCODE of `Std(v)`, rtr = false (R67). -/
  | encodeStdData (v dlc : Nat) (payload : List Byte) (pad : Pad)
  /-- ENCODE of `Std(v)`, rtr = true (R68). -/
  | encodeStdRemote (v dlc : Nat) (payload : List Byte) (pad : Pad)
  /-- ENCODE of `Ext(v)`, rtr = false (R69). -/
  | encodeExtData (v dlc : Nat) (payload : List Byte) (pad : Pad)
  /-- ENCODE of `Ext(v)`, rtr = true (R70). -/
  | encodeExtRemote (v dlc : Nat) (payload : List Byte) (pad : Pad)
  /-- DECODE of a layout with `W0[2:1] = 00` (R76). -/
  | decodeStdData (layout : Layout)
  /-- DECODE of a layout with `W0[2:1] = 01` (R77). -/
  | decodeStdRemote (layout : Layout)
  /-- DECODE of a layout with `W0[2:1] = 10` (R78). -/
  | decodeExtData (layout : Layout)
  /-- DECODE of a layout with `W0[2:1] = 11` (R79). -/
  | decodeExtRemote (layout : Layout)
deriving DecidableEq, Repr

/-- The inputs a caller presents at one of the two ports (R28). -/
inductive Call where
  | encode (frame : Frame) (pad : Pad)
  | decode (layout : Layout)
deriving DecidableEq, Repr

/-- What one step is handed to decode: a command word of the harness program, or a call at a port. -/
inductive Fetched where
  | command (word : Word16)
  | call (c : Call)
deriving DecidableEq, Repr

/-- Why the harness gives a fetched word no meaning (R91 code 4, R95). -/
inductive RefuseReason where
  | reservedCommand (word : Word16)
deriving DecidableEq, Repr

/-- One row of the opcode table: a word `w` of `nbits` bits belongs to it when `w` under `mask` is `pattern`. -/
structure OpcodeRow where
  mnemonic : String
  nbits : Nat
  mask : Nat
  pattern : Nat
deriving DecidableEq, Repr

/-- One line of harness assembly, its slot indices not yet checked (R62, R63). -/
inductive AsmLine where
  /-- `ENC L<l>, F<f>`. -/
  | enc (l f : Nat)
  /-- `DEC F<f>, L<l>`. -/
  | dec (f l : Nat)
  /-- `RT F<d>, F<s>, L<t>`. -/
  | rt (d s t : Nat)
deriving DecidableEq, Repr

/-- A token of the assembly text: a run of letters, digits and underscores, or one other character. -/
inductive AsmToken where
  | atom (chars : List Char)
  | sym (c : Char)
deriving DecidableEq, Repr

end Sys2Proof
end

