-- ==== Sys2Proof/Machine/Flags.lean ====
section
/-! DEFINITION. The discriminators of spec/10_state.md R26, the codec's only flags: IDE and RTR of the ID word, the kind tag
and the format they select (spec/30_encoding.md R52, R53, R56). None of them is state. -/

namespace Sys2Proof

/-- The kind tag of an identifier. -/
def Identifier.kind : Identifier → Kind
  | .std _ => .standard
  | .ext _ => .extended

/-- The value of an identifier, whatever its kind. -/
def Identifier.value : Identifier → Nat
  | .std v => v
  | .ext v => v

/-- An identifier of a kind. -/
def Identifier.ofKind : Kind → Nat → Identifier
  | .standard, v => .std v
  | .extended, v => .ext v

/-- What ENCODE writes for the kind: `IDE = W0[2]` (R52). -/
def ideBits : Kind → Word32
  | .standard => 0x0#32
  | .extended => 0x4#32

/-- What ENCODE writes for the remote-request flag: `RTR = W0[1]` (R53). -/
def rtrBits : Bool → Word32
  | false => 0x0#32
  | true => 0x2#32

/-- IDE, `W0[2]` (R52). -/
def Layout.ide (l : Layout) : Bool := l.w0.getLsbD 2

/-- RTR, `W0[1]` (R53). -/
def Layout.rtr (l : Layout) : Bool := l.w0.getLsbD 1

/-- The request bit, `W0[0]`, which is not the codec's (R54). -/
def Layout.req (l : Layout) : Bool := l.w0.getLsbD 0

/-- The kind DECODE reads from IDE (R52, R58). -/
def Layout.kind (l : Layout) : Kind := if l.ide then .extended else .standard

/-- The format of a kind and a remote-request flag (R56, R87). -/
def Format.of : Kind → Bool → Format
  | .standard, false => .stdData
  | .standard, true => .stdRemote
  | .extended, false => .extData
  | .extended, true => .extRemote

/-- The format of a layout, selected by `W0[2:1]` (R56). -/
def Layout.format (l : Layout) : Format := Format.of l.kind l.rtr

/-- The format ENCODE gives a frame (R87). -/
def Frame.format (f : Frame) : Format := Format.of f.id.kind f.rtr

end Sys2Proof
end

