-- ==== Sys2Proof/Machine/Operands.lean ====
section
/-! DEFINITION. Operands: the fields of a layout (spec/30_encoding.md R46 to R55, spec/20_memory.md R36, R37), the frame's
well-formedness checks (spec/10_state.md R20 to R23), and the packing of a frame's fields into words. -/

namespace Sys2Proof

/-! ### The frame's checks -/

/-- IdInRange (R20), on unbounded naturals, so nothing wraps (R88). -/
def Frame.idInRange (f : Frame) : Bool :=
  match f.id with
  | .std v => decide (v < 2 ^ Config.stdIdBits)
  | .ext v => decide (v < 2 ^ Config.extIdBits)

/-- DlcInRange (R21). -/
def Frame.dlcInRange (f : Frame) : Bool := decide (f.dlc ≤ Config.maxDlc)

/-- PayloadLength (R22): a remote frame carries no payload and keeps its dlc. -/
def Frame.payloadLength (f : Frame) : Bool :=
  f.payload.length == (if f.rtr then 0 else f.dlc)

/-- `WF(F)` (R23). -/
def Frame.wf (f : Frame) : Bool := f.idInRange && f.dlcInRange && f.payloadLength

/-! ### The layout's fields -/

/-- `W0[31:21]`, the standard identifier (R50). -/
def Layout.stdId (l : Layout) : Nat := (l.w0.extractLsb' 21 11).toNat

/-- `W0[31:3]`, the extended identifier (R51). -/
def Layout.extId (l : Layout) : Nat := (l.w0.extractLsb' 3 29).toNat

/-- The identifier of a layout read as one of a given kind (R50, R51, R58). -/
def Layout.idAs (l : Layout) : Kind → Identifier
  | .standard => .std l.stdId
  | .extended => .ext l.extId

/-- `W1[3:0]`, the raw data-length code (R55). -/
def Layout.dlcCode (l : Layout) : BitVec 4 := l.w1.extractLsb' 0 4

/-- The eight byte lanes, lane 0 first (R36, R48, R49). -/
def Layout.lanes (l : Layout) : List Byte :=
  [l.w2.extractLsb' 0 8, l.w2.extractLsb' 8 8, l.w2.extractLsb' 16 8, l.w2.extractLsb' 24 8,
   l.w3.extractLsb' 0 8, l.w3.extractLsb' 8 8, l.w3.extractLsb' 16 8, l.w3.extractLsb' 24 8]

/-- `padOf(L)`: the eight lanes as a pad (R86). -/
def Layout.padOf (l : Layout) : Pad :=
  #v[l.w2.extractLsb' 0 8, l.w2.extractLsb' 8 8, l.w2.extractLsb' 16 8, l.w2.extractLsb' 24 8,
     l.w3.extractLsb' 0 8, l.w3.extractLsb' 8 8, l.w3.extractLsb' 16 8, l.w3.extractLsb' 24 8]

/-- The frame a layout holds, read as one of a given kind and rtr with a given data-length: the payload is truncated to
the declared length and empty for a remote frame (R73). -/
def Layout.frameAs (l : Layout) (kind : Kind) (rtr : Bool) (dlc : Nat) : Frame :=
  { id := l.idAs kind, rtr := rtr, dlc := dlc, payload := if rtr then [] else l.lanes.take dlc }

/-- The ID word of `canon(L)` (R86). -/
def canonW0 (w0 : Word32) : Word32 :=
  if w0.getLsbD 2 then w0 &&& 0xFFFFFFFE#32 else w0 &&& 0xFFE00002#32

/-- The DT word of `canon(L)` (R86). -/
def canonW1 (w1 : Word32) : Word32 := BitVec.ofNat 32 (min (w1.extractLsb' 0 4).toNat 8)

/-- `canon(L)`, the canonical form of a layout (R86). -/
def Layout.canon (l : Layout) : Layout := { l with w0 := canonW0 l.w0, w1 := canonW1 l.w1 }

/-! ### Packing -/

/-- The identifier field of W0: `v << 21` (R50) or `v << 3` (R51). -/
def idBits : Identifier → Word32
  | .std v => (BitVec.ofNat 11 v).setWidth 32 <<< 21
  | .ext v => (BitVec.ofNat 29 v).setWidth 32 <<< 3

/-- W0 of an encoding: identifier, IDE and RTR; `W0[0]` is 0, and so is `W0[20:3]` of a standard frame (R46, R57). -/
def packW0 (id : Identifier) (rtr : Bool) : Word32 := idBits id ||| ideBits id.kind ||| rtrBits rtr

/-- W1 of an encoding: the data-length code, the rest 0 (R47, R55). -/
def packW1 (dlc : Nat) : Word32 := (BitVec.ofNat 4 dlc).setWidth 32

/-- Byte lane `i` of an encoding: the payload byte where there is one, else the pad byte (R66). -/
def laneByte (payload : List Byte) (pad : Pad) (i : Fin 8) : Byte := payload.getD i.val pad[i]

/-- W2 of an encoding: lanes 3 to 0, lane 0 lowest (R48). -/
def packW2 (payload : List Byte) (pad : Pad) : Word32 :=
  laneByte payload pad 3 ++ laneByte payload pad 2 ++ laneByte payload pad 1 ++ laneByte payload pad 0

/-- W3 of an encoding: lanes 7 to 4, lane 4 lowest (R49). -/
def packW3 (payload : List Byte) (pad : Pad) : Word32 :=
  laneByte payload pad 7 ++ laneByte payload pad 6 ++ laneByte payload pad 5 ++ laneByte payload pad 4

/-- The layout of a frame that passes its checks (R64). -/
def Frame.pack (f : Frame) (pad : Pad) : Layout :=
  { w0 := packW0 f.id f.rtr, w1 := packW1 f.dlc, w2 := packW2 f.payload pad, w3 := packW3 f.payload pad }

end Sys2Proof
end

