-- ==== Sys2Proof/Machine/State.lean ====
section
/-! DEFINITION. The machine's state as plain data: the harness of spec/10_state.md R29 with its parameters, and the inputs and
outputs of the codec's two ports (R28). The codec itself has no state (R17). Also every way an operation can end (R91). -/

namespace Sys2Proof
namespace Machine

/-- Which check a frame fails (R92). -/
inductive FrameDefect where
  | idOutOfRange
  | dlcOutOfRange
  | payloadLengthMismatch
deriving DecidableEq, Repr

/-- The two slot files of the harness (R29). -/
inductive SlotFile where
  | f
  | l
deriving DecidableEq, Repr

/-- The faults of the spec with what each records (R91). They are recorded in the NEXT state, not outcomes of a step (R97,
log 11). -/
inductive FaultReason where
  /-- Code 1: ENCODE's operand fails a check. -/
  | frameInvariantViolation (defect : FrameDefect) (frame : Frame)
  /-- Code 2: DECODE met a data-length code of 9 to 15 under the setting Fault. -/
  | dlcAboveEight (raw : BitVec 4)
  /-- Code 3: the command's source slot is None. -/
  | unwrittenSlot (file : SlotFile) (index : SlotIdx)
deriving DecidableEq, Repr

/-- The outputs of a port: `ok` with its value, or a fault reason and no value (R28, R97). -/
inductive PortOut (α : Type) where
  | ok (value : α)
  | fault (reason : FaultReason)
deriving DecidableEq, Repr

/-- The harness's status (R29). `pc` is the index of the command that faulted or was refused. -/
inductive Status where
  | running
  | done
  | faulted (reason : FaultReason) (pc : Nat)
  | refused (reason : RefuseReason) (pc : Nat)
deriving DecidableEq, Repr

structure State where
  /-- `F[0..15]` (R29); None holds no value (R31). -/
  fslots : Vector (Option Frame) 16
  /-- `L[0..15]` (R29); None holds no value (R31). -/
  lslots : Vector (Option Layout) 16
  /-- The index of the command to execute next (R30). -/
  pc : Nat
  /-- The run's status (R29). -/
  status : Status
  /-- The harness program, a parameter of the run (R29, R45; log 4). -/
  program : List Word16
  /-- The parameter `DLC_ABOVE_8` (R11, R27; log 4). -/
  dlcAbove8 : DlcAbove8
  /-- How many pads of the oracle have been drawn: the model's own field (R29; logs 1, 2). -/
  draws : Nat
  /-- The calls waiting at the codec's ports, oldest first: the model's own field (R28; log 5). -/
  calls : List Call
  /-- The ENCODE port's outputs for the last call served, None before the first (R28; log 6). -/
  encodeOut : Option (PortOut Layout)
  /-- The DECODE port's outputs for the last call served, None before the first (R28; log 6). -/
  decodeOut : Option (PortOut Frame)
deriving DecidableEq, Repr

/-- The launch state of R33 with no slot written, no program loaded and no call pending (logs 2, 4, 5, 6). -/
def State.reset : State :=
  { fslots := Vector.replicate 16 none
    lslots := Vector.replicate 16 none
    pc := 0
    status := .running
    program := []
    dlcAbove8 := .clamp8
    draws := 0
    calls := []
    encodeOut := none
    decodeOut := none }

/-- Where a step of the model stops although the spec's machine has no such outcome. -/
inductive Fault where
  /-- Raised by step alone, when the harness runs and its pc lies beyond the end of its program: no run reaches such a state
  (R30), and the spec gives it no effect. SAFE: the model stops, nothing is proved of a next state (log 10). -/
  | pcOutsideProgram (pc length : Nat)
deriving DecidableEq, Repr

/-- Why an instruction has no meaning in the model. -/
inductive Refusal where
  /-- Raised by exec for an instruction without a meaning; no arm of exec does. SAFE: nothing is proved of it. A reserved command
  word is no case of this: the spec says what it does (R95), and the model does it. -/
  | notModelled (mnemonic : String)
deriving DecidableEq, Repr

end Machine
end Sys2Proof
end

