-- ==== Sys2Proof/Machine/Codec.lean ====
section
/-! DEFINITION. The codec's two operations as pure functions: ENCODE (spec/40_encode.md R64) and DECODE (spec/41_decode.md
R73, R74), with the codes of the faults (spec/60_exceptions.md R91). -/

namespace Sys2Proof
namespace Machine

/-- The first check a frame fails, in the order of R23 and R96; none for a well-formed frame. -/
def frameDefect (f : Frame) : Option FrameDefect :=
  if f.idInRange then
    if f.dlcInRange then
      if f.payloadLength then none else some .payloadLengthMismatch
    else some .dlcOutOfRange
  else some .idOutOfRange

/-- `ENCODE(F, pad)` (R64): the checks come before any output (R65). -/
def encodeFrame (f : Frame) (pad : Pad) : PortOut Layout :=
  match frameDefect f with
  | some d => .fault (.frameInvariantViolation d f)
  | none => .ok (f.pack pad)

/-- `DLC_MAP(raw)` (R74). -/
def dlcMap (cfg : DlcAbove8) (raw : BitVec 4) : PortOut Nat :=
  if raw.toNat ≤ Config.maxDlc then .ok raw.toNat
  else
    match cfg with
    | .clamp8 => .ok Config.maxDlc
    | .fault => .fault (.dlcAboveEight raw)

/-- DECODE of a layout read as one of a given kind and rtr: the pseudocode that R76 to R79 share. -/
def decodeAs (kind : Kind) (rtr : Bool) (cfg : DlcAbove8) (l : Layout) : PortOut Frame :=
  match dlcMap cfg l.dlcCode with
  | .ok dlc => .ok (l.frameAs kind rtr dlc)
  | .fault r => .fault r

/-- `DECODE(L)` (R73): kind from IDE, rtr from RTR. -/
def decodeLayout (cfg : DlcAbove8) (l : Layout) : PortOut Frame := decodeAs l.kind l.rtr cfg l

/-- The port output `ok` (R28). -/
def PortOut.isOk {α : Type} : PortOut α → Bool
  | .ok _ => true
  | .fault _ => false

/-- The port output `layout` or `frame`, which holds no value when not `ok` (R28, R97). -/
def PortOut.value? {α : Type} : PortOut α → Option α
  | .ok v => some v
  | .fault _ => none

/-- The port output `fault`, meaningful only when not `ok` (R28, R97). -/
def PortOut.fault? {α : Type} : PortOut α → Option FaultReason
  | .ok _ => none
  | .fault r => some r

/-- The reason subcode of a FrameInvariantViolation (R91). -/
def FrameDefect.subcode : FrameDefect → Nat
  | .idOutOfRange => 1
  | .dlcOutOfRange => 2
  | .payloadLengthMismatch => 3

/-- The code of a fault (R91). -/
def FaultReason.code : FaultReason → Nat
  | .frameInvariantViolation _ _ => 1
  | .dlcAboveEight _ => 2
  | .unwrittenSlot _ _ => 3

/-- The code of a refusal (R91). -/
def refuseCode : RefuseReason → Nat
  | .reservedCommand _ => 4

end Machine
end Sys2Proof
end

