-- ==== Sys2Proof/Machine/Ops.lean ====
section
/-! DEFINITION. The named operations over the state: slots, advancing the pc, recording a fault or a refusal
(spec/60_exceptions.md R97), evaluating a port, and launching a run (spec/10_state.md R33). -/

namespace Sys2Proof
namespace Machine

/-- `F[i]` (R15). -/
def State.readF (s : State) (i : SlotIdx) : Option Frame := s.fslots[i]

/-- `L[i]` (R15). -/
def State.readL (s : State) (i : SlotIdx) : Option Layout := s.lslots[i]

/-- `F[i] <- Some(v)` (R15): the slot is overwritten whole. -/
def State.writeF (s : State) (i : SlotIdx) (v : Frame) : State :=
  { s with fslots := s.fslots.set i.val (some v) i.isLt }

/-- `L[i] <- Some(v)` (R15): the slot is overwritten whole (R40). -/
def State.writeL (s : State) (i : SlotIdx) (v : Layout) : State :=
  { s with lslots := s.lslots.set i.val (some v) i.isLt }

/-- `pc <- pc + 1`: what every completed command does (R30). -/
def State.advance (s : State) : State := { s with pc := s.pc + 1 }

/-- The pad is drawn: the oracle moves to its next pad (R29). -/
def State.drawn (s : State) : State := { s with draws := s.draws + 1 }

/-- TAKING A FAULT (R97): `status <- Faulted(reason, pc)`, the pc left at the command and nothing else changed. There is no
vector, no handler and no return (R98). -/
def takeFault (r : FaultReason) (s : State) : State := { s with status := .faulted r s.pc }

/-- Recording a refusal (R95, R97): `status <- Refused(reason, pc)`, nothing else changed. -/
def takeRefusal (r : RefuseReason) (s : State) : State := { s with status := .refused r s.pc }

/-- One evaluation of the ENCODE port (R28): it sets the port's outputs and nothing else. -/
def evalEncodePort (f : Frame) (pad : Pad) (s : State) : State :=
  { s with encodeOut := some (encodeFrame f pad) }

/-- One evaluation of the DECODE port (R28) on a layout read as one of a given kind and rtr. -/
def evalDecodePort (kind : Kind) (rtr : Bool) (l : Layout) (s : State) : State :=
  { s with decodeOut := some (decodeAs kind rtr s.dlcAbove8 l) }

/-- ENC with the pad it draws (R72). The source slot is checked before the pad is drawn. -/
def encWith (pad : Pad) (d src : SlotIdx) (s : State) : State :=
  match s.readF src with
  | none => takeFault (.unwrittenSlot .f src) s
  | some f =>
    match encodeFrame f pad with
    | .fault r => takeFault r s.drawn
    | .ok l => (s.drawn.writeL d l).advance

/-- DEC (R82). -/
def decSlot (d src : SlotIdx) (s : State) : State :=
  match s.readL src with
  | none => takeFault (.unwrittenSlot .l src) s
  | some l =>
    match decodeLayout s.dlcAbove8 l with
    | .fault r => takeFault r s
    | .ok f => (s.writeF d f).advance

/-- The launch state of a run (R33, R107): a program, a setting of `DLC_ABOVE_8` and the slots the start state names. -/
def launch (program : List Word16) (cfg : DlcAbove8) (fslots : Vector (Option Frame) 16)
    (lslots : Vector (Option Layout) 16) : State :=
  { State.reset with program := program, dlcAbove8 := cfg, fslots := fslots, lslots := lslots }

end Machine
end Sys2Proof
end

