-- ==== Sys2Proof/Machine/DecodeFamily.lean ====
section
/-! DEFINITION. The DECODE family (spec/41_decode.md): the harness command DEC and the four formats of the DECODE port. -/

namespace Sys2Proof
namespace Machine

/-- DEC (R82). It draws no pad. -/
def execDec (d s : SlotIdx) (st : State) : Host.Outcome State Fault Refusal :=
  .next (decSlot d s st)

/-- DECODE.STD.DATA (R76). -/
def execDecodeStdData (l : Layout) (st : State) : Host.Outcome State Fault Refusal :=
  .next (evalDecodePort .standard false l st)

/-- DECODE.STD.REMOTE (R77). -/
def execDecodeStdRemote (l : Layout) (st : State) : Host.Outcome State Fault Refusal :=
  .next (evalDecodePort .standard true l st)

/-- DECODE.EXT.DATA (R78). -/
def execDecodeExtData (l : Layout) (st : State) : Host.Outcome State Fault Refusal :=
  .next (evalDecodePort .extended false l st)

/-- DECODE.EXT.REMOTE (R79). -/
def execDecodeExtRemote (l : Layout) (st : State) : Host.Outcome State Fault Refusal :=
  .next (evalDecodePort .extended true l st)

end Machine
end Sys2Proof
end

