-- ==== Sys2Proof/Machine/EncodeFamily.lean ====
section
/-! DEFINITION. The ENCODE family (spec/40_encode.md): the harness command ENC and the four formats of the ENCODE port. -/

namespace Sys2Proof
namespace Machine

/-- ENC (R72), with the next pad of the oracle (log 1). -/
def execEnc (d s : SlotIdx) (st : State) : Host.Outcome State Fault Refusal :=
  .next (encWith (Config.padDraw st.draws) d s st)

/-- ENCODE.STD.DATA (R67). -/
def execEncodeStdData (v dlc : Nat) (payload : List Byte) (pad : Pad) (st : State) :
    Host.Outcome State Fault Refusal :=
  .next (evalEncodePort { id := .std v, rtr := false, dlc := dlc, payload := payload } pad st)

/-- ENCODE.STD.REMOTE (R68). -/
def execEncodeStdRemote (v dlc : Nat) (payload : List Byte) (pad : Pad) (st : State) :
    Host.Outcome State Fault Refusal :=
  .next (evalEncodePort { id := .std v, rtr := true, dlc := dlc, payload := payload } pad st)

/-- ENCODE.EXT.DATA (R69). -/
def execEncodeExtData (v dlc : Nat) (payload : List Byte) (pad : Pad) (st : State) :
    Host.Outcome State Fault Refusal :=
  .next (evalEncodePort { id := .ext v, rtr := false, dlc := dlc, payload := payload } pad st)

/-- ENCODE.EXT.REMOTE (R70). -/
def execEncodeExtRemote (v dlc : Nat) (payload : List Byte) (pad : Pad) (st : State) :
    Host.Outcome State Fault Refusal :=
  .next (evalEncodePort { id := .ext v, rtr := true, dlc := dlc, payload := payload } pad st)

end Machine
end Sys2Proof
end

