-- ==== Sys2Proof/Machine/Dispatch.lean ====
section
/-! DEFINITION. What every instruction does: one arm per row of spec/opcode_table.json. -/

namespace Sys2Proof
namespace Machine

def exec (i : Instr) (s : State) : Host.Outcome State Fault Refusal :=
  match i with
  | .enc d src => Sys2Proof.Machine.execEnc d src s
  | .dec d src => Sys2Proof.Machine.execDec d src s
  | .encodeStdData v dlc payload pad => Sys2Proof.Machine.execEncodeStdData v dlc payload pad s
  | .encodeStdRemote v dlc payload pad => Sys2Proof.Machine.execEncodeStdRemote v dlc payload pad s
  | .encodeExtData v dlc payload pad => Sys2Proof.Machine.execEncodeExtData v dlc payload pad s
  | .encodeExtRemote v dlc payload pad => Sys2Proof.Machine.execEncodeExtRemote v dlc payload pad s
  | .decodeStdData layout => Sys2Proof.Machine.execDecodeStdData layout s
  | .decodeStdRemote layout => Sys2Proof.Machine.execDecodeStdRemote layout s
  | .decodeExtData layout => Sys2Proof.Machine.execDecodeExtData layout s
  | .decodeExtRemote layout => Sys2Proof.Machine.execDecodeExtRemote layout s

end Machine
end Sys2Proof
end

