-- ==== Sys2Proof/WellFormed.lean ====
section
/-! DEFINITION. When an instruction is well formed: a DECODE row's layout has the row's format. Every other operand has a
meaning: a slot index is one of 16 by its type (spec/20_memory.md R39), and an ill-formed frame is an operand of ENCODE that
ENCODE itself rejects (spec/60_exceptions.md R92; the frame's checks are Frame.wf in Machine/Operands.lean). -/

namespace Sys2Proof

/-- An instruction the decoder can give (R56). -/
def Instr.wellFormed : Instr → Bool
  | .enc _ _ => true
  | .dec _ _ => true
  | .encodeStdData _ _ _ _ => true
  | .encodeStdRemote _ _ _ _ => true
  | .encodeExtData _ _ _ _ => true
  | .encodeExtRemote _ _ _ _ => true
  | .decodeStdData l => decide (l.format = .stdData)
  | .decodeStdRemote l => decide (l.format = .stdRemote)
  | .decodeExtData l => decide (l.format = .extData)
  | .decodeExtRemote l => decide (l.format = .extRemote)

end Sys2Proof
end

