-- ==== Sys2Proof/Decode.lean ====
section
/-! DEFINITION. The decoder (command words by spec/30_encoding.md R60 and R61, port calls by R56), the encoder, the opcode
table, and the reading of the opcode table's own words. -/

namespace Sys2Proof

/-- The op field, bits 15:12 (R60). -/
def cmdOp (w : Word16) : BitVec 4 := w.extractLsb' 12 4

/-- The destination slot, bits 11:8 (R60). -/
def cmdD (w : Word16) : SlotIdx := (w.extractLsb' 8 4).toFin

/-- The source slot, bits 7:4 (R60). -/
def cmdS (w : Word16) : SlotIdx := (w.extractLsb' 4 4).toFin

/-- The must-be-zero field, bits 3:0 (R60). -/
def cmdZ (w : Word16) : BitVec 4 := w.extractLsb' 0 4

/-- A command word is ENC, DEC or reserved (R61). -/
def decodeCommand (w : Word16) : Except RefuseReason Instr :=
  if cmdZ w = 0#4 then
    if cmdOp w = 0x1#4 then .ok (.enc (cmdD w) (cmdS w))
    else if cmdOp w = 0x2#4 then .ok (.dec (cmdD w) (cmdS w))
    else .error (.reservedCommand w)
  else .error (.reservedCommand w)

/-- The ENCODE row of a frame: by its kind tag and rtr alone, never by the identifier's value (R56, R71). -/
def encodeRow (f : Frame) (pad : Pad) : Instr :=
  match f.id, f.rtr with
  | .std v, false => .encodeStdData v f.dlc f.payload pad
  | .std v, true => .encodeStdRemote v f.dlc f.payload pad
  | .ext v, false => .encodeExtData v f.dlc f.payload pad
  | .ext v, true => .encodeExtRemote v f.dlc f.payload pad

/-- The DECODE row of a layout: by `W0[2:1]`; every layout has one (R56, R59). -/
def decodeRow (l : Layout) : Instr :=
  match l.format with
  | .stdData => .decodeStdData l
  | .stdRemote => .decodeStdRemote l
  | .extData => .decodeExtData l
  | .extRemote => .decodeExtRemote l

/-- The instruction of a call at a port. -/
def decodeCall : Call → Instr
  | .encode f pad => encodeRow f pad
  | .decode l => decodeRow l

/-- The decoder: total, and what it rejects it rejects by name. -/
def decode : Fetched → Except RefuseReason Instr
  | .command w => decodeCommand w
  | .call c => .ok (decodeCall c)

/-- The command word of an op and two slots: `op<<12 | d<<8 | s<<4` (R60, R62). -/
def encodeCommand (op : BitVec 4) (d s : SlotIdx) : Word16 :=
  op ++ BitVec.ofFin (w := 4) d ++ BitVec.ofFin (w := 4) s ++ 0#4

/-- The encoder: what the machine is handed for an instruction. -/
def encode : Instr → Fetched
  | .enc d s => .command (encodeCommand 0x1#4 d s)
  | .dec d s => .command (encodeCommand 0x2#4 d s)
  | .encodeStdData v dlc payload pad => .call (.encode ⟨.std v, false, dlc, payload⟩ pad)
  | .encodeStdRemote v dlc payload pad => .call (.encode ⟨.std v, true, dlc, payload⟩ pad)
  | .encodeExtData v dlc payload pad => .call (.encode ⟨.ext v, false, dlc, payload⟩ pad)
  | .encodeExtRemote v dlc payload pad => .call (.encode ⟨.ext v, true, dlc, payload⟩ pad)
  | .decodeStdData l => .call (.decode l)
  | .decodeStdRemote l => .call (.decode l)
  | .decodeExtData l => .call (.decode l)
  | .decodeExtRemote l => .call (.decode l)

/-! ### The opcode table -/

/-- The opcode table's row of an instruction: mask and match as R61 gives them for the commands. For an ENCODE row they are
the fixed bits of the W0 it writes, for a DECODE row those of the W0 it reads (R56). -/
def Instr.row : Instr → OpcodeRow
  | .enc _ _ => ⟨"ENC", 16, 0xF00F, 0x1000⟩
  | .dec _ _ => ⟨"DEC", 16, 0xF00F, 0x2000⟩
  | .encodeStdData _ _ _ _ => ⟨"ENCODE.STD.DATA", 32, 0x001FFFFF, 0x00000000⟩
  | .encodeStdRemote _ _ _ _ => ⟨"ENCODE.STD.REMOTE", 32, 0x001FFFFF, 0x00000002⟩
  | .encodeExtData _ _ _ _ => ⟨"ENCODE.EXT.DATA", 32, 0x00000007, 0x00000004⟩
  | .encodeExtRemote _ _ _ _ => ⟨"ENCODE.EXT.REMOTE", 32, 0x00000007, 0x00000006⟩
  | .decodeStdData _ => ⟨"DECODE.STD.DATA", 32, 0x00000006, 0x00000000⟩
  | .decodeStdRemote _ => ⟨"DECODE.STD.REMOTE", 32, 0x00000006, 0x00000002⟩
  | .decodeExtData _ => ⟨"DECODE.EXT.DATA", 32, 0x00000006, 0x00000004⟩
  | .decodeExtRemote _ => ⟨"DECODE.EXT.REMOTE", 32, 0x00000006, 0x00000006⟩

/-- The first word of an instruction as the opcode table prints it: the command word, the W0 an ENCODE row writes, or the
W0 a DECODE row reads. -/
def Instr.tableWord : Instr → Nat
  | .enc d s => (encodeCommand 0x1#4 d s).toNat
  | .dec d s => (encodeCommand 0x2#4 d s).toNat
  | .encodeStdData v _ _ _ => (packW0 (.std v) false).toNat
  | .encodeStdRemote v _ _ _ => (packW0 (.std v) true).toNat
  | .encodeExtData v _ _ _ => (packW0 (.ext v) false).toNat
  | .encodeExtRemote v _ _ _ => (packW0 (.ext v) true).toNat
  | .decodeStdData l => l.w0.toNat
  | .decodeStdRemote l => l.w0.toNat
  | .decodeExtData l => l.w0.toNat
  | .decodeExtRemote l => l.w0.toNat

/-- A number as a layout: W0 its lowest 32 bits, then W1, W2, W3. -/
def Layout.ofBits (w : Nat) : Layout :=
  { w0 := BitVec.ofNat 32 w, w1 := BitVec.ofNat 32 (w >>> 32), w2 := BitVec.ofNat 32 (w >>> 64),
    w3 := BitVec.ofNat 32 (w >>> 96) }

/-- The number of a layout's 128 bits, W0 lowest. -/
def Layout.toBits (l : Layout) : Nat :=
  l.w0.toNat + 2 ^ 32 * l.w1.toNat + 2 ^ 64 * l.w2.toNat + 2 ^ 96 * l.w3.toNat

/-- The call that bits of the opcode table's LAYOUT.W0 rows stand for. The table says nothing of the port, and every word of
an ENCODE row fits the DECODE row of its format too: a layout in canonical form (R86), which ENCODE can have written, stands for
the ENCODE call that writes it, any other layout for the DECODE call that reads it. A convention of the table's reading
alone, DESIGN CHOICE (log 7): at the DECODE port every layout is decoded. -/
def layoutCall (l : Layout) : Call :=
  if l.canon = l then .encode (l.frameAs l.kind l.rtr l.dlcCode.toNat) l.padOf else .decode l

/-- What the machine is handed for bits of the opcode table: 16 bits are a command word, 32 bits (or up to all 128) a
layout whose further words are 0. -/
def fetchedOfTable (nbits w : Nat) : Option Fetched :=
  if nbits = 16 then some (.command (BitVec.ofNat 16 w))
  else if nbits = 32 ∨ nbits = 64 ∨ nbits = 96 ∨ nbits = 128 then
    some (.call (layoutCall (Layout.ofBits (w % 2 ^ nbits))))
  else none

/-- The instruction the decoder reads from bits numbered as the opcode table numbers them. -/
def decodeTableWord (nbits w : Nat) : Option Instr :=
  match fetchedOfTable nbits w with
  | some f => (decode f).toOption
  | none => none

end Sys2Proof
end

