-- ==== Sys2Proof/Machine/Fetch.lean ====
section
/-! DEFINITION. What one step fetches, what it does when nothing is fetched or the word is reserved, and how a table word is
placed (spec/10_state.md R30, spec/60_exceptions.md R95, R97, R98). -/

namespace Sys2Proof
namespace Machine

/-- What the step is handed, and the state it is executed in: the oldest call at a port (log 5), else, while the harness
runs, the command at its pc (R30). A harness that is not running executes no command (R97). -/
def fetch (s : State) : Option (Fetched × State) :=
  match s.calls with
  | c :: rest => some (.call c, { s with calls := rest })
  | [] =>
    match s.status with
    | .running => (s.program[s.pc]?).map fun w => (.command w, s)
    | .done => none
    | .faulted _ _ => none
    | .refused _ _ => none

/-- A step with nothing to execute: a run whose pc has reached the end of its program is Done (R30); a harness that is not
running stays as it is, for ever (R97, R98; log 9). -/
def idle (s : State) : Host.Outcome State Fault Refusal :=
  match s.status with
  | .running =>
    if s.pc = s.program.length then .next { s with status := .done }
    else .fault (.pcOutsideProgram s.pc s.program.length)
  | .done => .next s
  | .faulted _ _ => .next s
  | .refused _ _ => .next s

/-- A program with `w` at index `pc`, the rest kept; if the program ends before `pc`, reserved words fill the gap (log 8). -/
def placeCommand (program : List Word16) (pc : Nat) (w : Word16) : List Word16 :=
  program.take pc ++ List.replicate (pc - program.length) 0#16 ++ w :: program.drop (pc + 1)

/-- The state with something placed where the next step fetches: a call goes before all others; a command goes to the pc of
a running harness with no call pending (log 8). -/
def placeFetched (s : State) : Fetched → State
  | .call c => { s with calls := c :: s.calls }
  | .command w =>
    { s with calls := [], status := .running, program := placeCommand s.program s.pc w }

/-- The state with bits of the opcode table placed where the next step fetches. -/
def placeTableWord (s : State) (nbits w : Nat) : State :=
  match fetchedOfTable nbits w with
  | some f => placeFetched s f
  | none => s

end Machine
end Sys2Proof
end

