-- ==== Sys2Proof/Machine/Step.lean ====
section
/-! DEFINITION. One step of the machine: one port call, or one harness command (spec/20_memory.md R43). -/

namespace Sys2Proof
namespace Machine

/-- One step. A reserved command word is refused as R95 says: a next state that records it. -/
def step (s : State) : Host.Outcome State Fault Refusal :=
  match fetch s with
  | none => idle s
  | some (f, s') =>
    match decode f with
    | .ok i => exec i s'
    | .error r => .next (takeRefusal r s')

/-- The state with an instruction of the opcode table placed where step fetches its next instruction. -/
def State.withFetchWord (s : State) (nbits w : Nat) : State := placeTableWord s nbits w

end Machine
end Sys2Proof
end

