-- ==== Sys2Proof/Machine/Assembler.lean ====
section
/-! DEFINITION. The harness assembly of spec/30_encoding.md R62 and the pseudo-instruction of R63: from lines of text to command
words, and the start-state literals. It is no part of a step. White space, letter case and number bases: log 16. -/

namespace Sys2Proof
namespace Machine

/-- A slot index; one above 15 does not assemble (R62). -/
def asmSlot (n : Nat) : Option SlotIdx := if h : n < 16 then some ⟨n, h⟩ else none

/-- The command words of one line (R62); RT expands to ENC, then DEC (R63). -/
def assembleLine : AsmLine → Option (List Word16)
  | .enc l f => do return [encodeCommand 0x1#4 (← asmSlot l) (← asmSlot f)]
  | .dec f l => do return [encodeCommand 0x2#4 (← asmSlot f) (← asmSlot l)]
  | .rt d s t => do
    let d ← asmSlot d
    let s ← asmSlot s
    let t ← asmSlot t
    return [encodeCommand 0x1#4 t s, encodeCommand 0x2#4 d t]

/-- The words of a whole program; one line that does not assemble fails it. -/
def assemble : List AsmLine → Option (List Word16)
  | [] => some []
  | x :: xs => do return (← assembleLine x) ++ (← assemble xs)

/-! ### Text -/

/-- A character of an atom. -/
def asmAtomChar (c : Char) : Bool := c.isAlphanum || c == '_'

/-- The atom read so far, as a token. -/
def asmFlush (acc : List Char) : List AsmToken := if acc = [] then [] else [.atom acc.reverse]

/-- The tokens of one line; `;` starts a comment (R62), white space separates. -/
def asmTokens : List Char → List Char → List AsmToken
  | [], acc => asmFlush acc
  | c :: cs, acc =>
    if asmAtomChar c then asmTokens cs (c :: acc)
    else asmFlush acc ++
      (if c = ';' then [] else if c.isWhitespace then asmTokens cs [] else .sym c :: asmTokens cs [])

/-- The value of one digit in a base. -/
def asmDigit (base : Nat) (c : Char) : Option Nat :=
  let n := c.toNat
  let v := if 48 ≤ n ∧ n ≤ 57 then n - 48 else if 65 ≤ n ∧ n ≤ 70 then n - 55 else if 97 ≤ n ∧ n ≤ 102 then n - 87 else 16
  if v < base then some v else none

/-- The number a list of digits spells, most significant first. -/
def asmDigits (base : Nat) : List Char → Nat → Option Nat
  | [], acc => some acc
  | c :: cs, acc => (asmDigit base c).bind fun v => asmDigits base cs (acc * base + v)

/-- A numeral: `0x` starts a hexadecimal one (R14), any other is decimal. -/
def asmNumber : List Char → Option Nat
  | [] => none
  | '0' :: 'x' :: c :: cs => asmDigits 16 (c :: cs) 0
  | c :: cs => asmDigits 10 (c :: cs) 0

/-- The index of a slot name with a given file letter, `F0` to `F15` or `L0` to `L15` (R62), not yet bounded. -/
def asmSlotName (file : Char) : List Char → Option Nat
  | [] => none
  | c :: cs => if c = file ∧ cs ≠ [] then asmDigits 10 cs 0 else none

/-- One line of assembly; a line with no token at all is no command. -/
def asmParseLine : List AsmToken → Option (Option AsmLine)
  | [] => some none
  | [.atom ['E', 'N', 'C'], .atom l, .sym ',', .atom f] => do
    return some (.enc (← asmSlotName 'L' l) (← asmSlotName 'F' f))
  | [.atom ['D', 'E', 'C'], .atom f, .sym ',', .atom l] => do
    return some (.dec (← asmSlotName 'F' f) (← asmSlotName 'L' l))
  | [.atom ['R', 'T'], .atom d, .sym ',', .atom s, .sym ',', .atom t] => do
    return some (.rt (← asmSlotName 'F' d) (← asmSlotName 'F' s) (← asmSlotName 'L' t))
  | _ => none

/-- The command words of one line of text. -/
def asmLineWords (line : List Char) : Option (List Word16) :=
  match asmParseLine (asmTokens line []) with
  | none => none
  | some none => some []
  | some (some x) => assembleLine x

/-- The command words of a program text, one command per line (R62). -/
def assembleText : List (List Char) → Option (List Word16)
  | [] => some []
  | x :: xs => do return (← asmLineWords x) ++ (← assembleText xs)

/-! ### Start-state literals -/

/-- The short form `std(v) data [..]` or `ext(v) data [..]`: `dlc = len(list)`, `rtr = false` (R62). -/
def dataFrame (id : Identifier) (payload : List Byte) : Frame :=
  { id := id, rtr := false, dlc := payload.length, payload := payload }

/-- The short form `std(v) remote dlc=n` or `ext(v) remote dlc=n`: `rtr = true`, `payload = []` (R62). -/
def remoteFrame (id : Identifier) (dlc : Nat) : Frame :=
  { id := id, rtr := true, dlc := dlc, payload := [] }

/-- A byte written as a numeral. -/
def asmByte (cs : List Char) : Option Byte :=
  (asmNumber cs).bind fun n => if n < 256 then some (BitVec.ofNat 8 n) else none

/-- A word written as a numeral. -/
def asmWord (cs : List Char) : Option Word32 :=
  (asmNumber cs).bind fun n => if n < 2 ^ 32 then some (BitVec.ofNat 32 n) else none

/-- The bytes of a list after its opening bracket, up to the closing one, and the tokens after it. -/
def asmBytes : List AsmToken → Option (List Byte × List AsmToken)
  | .sym ']' :: rest => some ([], rest)
  | .atom b :: .sym ']' :: rest => do return ([← asmByte b], rest)
  | .atom b :: .sym ',' :: rest => do
    let (bs, rest) ← asmBytes rest
    match bs with
    | [] => none
    | _ :: _ => return ((← asmByte b) :: bs, rest)
  | _ => none

/-- An opening or a closing brace. -/
def asmBrace (opening : Bool) : AsmToken → Bool
  | .sym c => c.toNat = (if opening then 123 else 125)
  | .atom _ => false

/-- `true` or `false`. -/
def asmBool : List Char → Option Bool
  | ['t', 'r', 'u', 'e'] => some true
  | ['f', 'a', 'l', 's', 'e'] => some false
  | _ => none

/-- An identifier's constructor, in the record form's or the short forms' spelling. -/
def asmIdentifier (cs : List Char) (v : Nat) : Option Identifier :=
  if cs = ['S', 't', 'd'] ∨ cs = ['s', 't', 'd'] then some (.std v)
  else if cs = ['E', 'x', 't'] ∨ cs = ['e', 'x', 't'] then some (.ext v)
  else none

/-- A frame literal in record form or in a short form (R62). The record form can spell ill-formed frames. -/
def asmFrame : List AsmToken → Option Frame
  | .atom k :: .sym '(' :: .atom v :: .sym ')' :: .atom ['d', 'a', 't', 'a'] :: .sym '[' :: rest => do
    let (payload, rest) ← asmBytes rest
    match rest with
    | [] => return dataFrame (← asmIdentifier k (← asmNumber v)) payload
    | _ :: _ => none
  | [.atom k, .sym '(', .atom v, .sym ')', .atom ['r', 'e', 'm', 'o', 't', 'e'], .atom ['d', 'l', 'c'], .sym '=', .atom n] => do
    return remoteFrame (← asmIdentifier k (← asmNumber v)) (← asmNumber n)
  | b :: .atom ['i', 'd'] :: .sym '=' :: .atom k :: .sym '(' :: .atom v :: .sym ')' :: .sym ',' ::
      .atom ['r', 't', 'r'] :: .sym '=' :: .atom r :: .sym ',' :: .atom ['d', 'l', 'c'] :: .sym '=' :: .atom n :: .sym ',' ::
      .atom ['p', 'a', 'y', 'l', 'o', 'a', 'd'] :: .sym '=' :: .sym '[' :: rest => do
    let (payload, rest) ← asmBytes rest
    match rest with
    | [c] =>
      if asmBrace true b && asmBrace false c then
        return { id := ← asmIdentifier k (← asmNumber v), rtr := ← asmBool r, dlc := ← asmNumber n, payload := payload }
      else none
    | _ => none
  | _ => none

/-- A layout literal (R62). -/
def asmLayout : List AsmToken → Option Layout
  | [b, .atom ['W', '0'], .sym '=', .atom a0, .sym ',', .atom ['W', '1'], .sym '=', .atom a1, .sym ',',
      .atom ['W', '2'], .sym '=', .atom a2, .sym ',', .atom ['W', '3'], .sym '=', .atom a3, c] =>
    if asmBrace true b && asmBrace false c then do
      return { w0 := ← asmWord a0, w1 := ← asmWord a1, w2 := ← asmWord a2, w3 := ← asmWord a3 }
    else none
  | _ => none

end Machine
end Sys2Proof
end

