-- ==== Sys2Proof/Safety.lean ====
section
/-! DEFINITION. What a good run is, and the invariants statements are made of: the launch premise (spec/70 R107), the end of
a run (spec/10 R30, spec/60 R98), genuine fault records (R91 to R97) and port outputs in form (R80, R86). -/

namespace Sys2Proof
namespace Machine

/-- `CleanLaunch` (R107) for a start state's slots. -/
abbrev CleanLaunch (s : State) (fslots : Vector (Option Frame) 16) (lslots : Vector (Option Layout) 16) : Prop :=
  s.pc = 0 ∧ s.status = .running ∧ s.fslots = fslots ∧ s.lslots = lslots

/-- The run ended without a fault or a refusal: what a claim about a run concludes (R98). -/
abbrev IsDone (s : State) : Prop := s.status = .done

/-- A run of n steps, as the host's interface runs the machine. -/
def runFor (n : Nat) (s : State) : Host.Outcome State Fault Refusal := Host.Core.run core n s

/-- A recorded fault is one the command at that pc raises in this state (R91, R94, R96): its cause still stands, since nothing changed
after it (R97). -/
def GenuineFault (s : State) (i : Instr) : FaultReason → Prop
  | .unwrittenSlot .f k => ∃ d, i = .enc d k ∧ s.readF k = none
  | .unwrittenSlot .l k => ∃ d, i = .dec d k ∧ s.readL k = none
  | .frameInvariantViolation defect f =>
    ∃ d k, i = .enc d k ∧ s.readF k = some f ∧ frameDefect f = some defect
  | .dlcAboveEight raw =>
    ∃ d k l, i = .dec d k ∧ s.readL k = some l ∧ l.dlcCode = raw ∧ 9 ≤ raw.toNat ∧ s.dlcAbove8 = .fault

/-- The harness's run control is coherent: the pc lies within the program or at its end; a run that is Done stands at the end (R30);
a recorded fault or refusal names the pc, and the command standing there raises it (R95, R97). -/
def RunControlSound (s : State) : Prop :=
  s.pc ≤ s.program.length ∧
  match s.status with
  | .running => True
  | .done => s.pc = s.program.length
  | .faulted r p =>
    p = s.pc ∧ ∃ w i, s.program[s.pc]? = some w ∧ decodeCommand w = .ok i ∧ GenuineFault s i r
  | .refused r p =>
    p = s.pc ∧ ∃ w, s.program[s.pc]? = some w ∧ decodeCommand w = .error r

/-- The port outputs are in form: an encoding is in canonical form (R86), its request bit 0 with the rest of the reserved
bits (R54, R57); a decoded frame is well formed (R80); DECODE has faulted only under the setting Fault (R93). -/
def PortsSound (s : State) : Prop :=
  (∀ l, s.encodeOut = some (.ok l) → l.canon = l) ∧
  (∀ f, s.decodeOut = some (.ok f) → f.wf = true) ∧
  (∀ r, s.decodeOut = some (.fault r) → s.dlcAbove8 = .fault)

/-- Every frame the harness holds is well formed. -/
def FramesWellFormed (s : State) : Prop := ∀ i f, s.readF i = some f → f.wf = true

end Machine
end Sys2Proof
end

