-- ==== Sys2Proof/Certificates/Slice0/Obligations.lean ====
section
/-! DEFINITION. The statements for the provers, taken from the spec's numbered rules. The arithmetic of layouts is written here a
second time, in plain numbers (namespace Stated), so that a statement does not repeat the model's own definitions. -/

namespace Sys2Proof
namespace Stated

open Machine

/-- One more than the largest value an identifier of a kind may have (R20). -/
def idLimit : Identifier → Nat
  | .std _ => 2048
  | .ext _ => 536870912

/-- The number an identifier carries (R18). -/
def idNumber : Identifier → Nat
  | .std v => v
  | .ext v => v

/-- The payload length the frame's dlc and rtr call for (R22). -/
def payloadDue (f : Frame) : Nat := if f.rtr = true then 0 else f.dlc

/-- WF(F) in plain numbers (R20 to R23). -/
abbrev WellFormed (f : Frame) : Prop :=
  idNumber f.id < idLimit f.id ∧ f.dlc ≤ 8 ∧ f.payload.length = payloadDue f

/-- The first check a frame fails, in the order of R23. -/
def firstDefect (f : Frame) : Option FrameDefect :=
  if idLimit f.id ≤ idNumber f.id then some .idOutOfRange
  else if 8 < f.dlc then some .dlcOutOfRange
  else if f.payload.length = payloadDue f then none
  else some .payloadLengthMismatch

/-- The byte ENCODE puts in lane i: payload, then pad (R66). -/
def byteAt (payload : List Byte) (pad : Pad) (i : Fin 8) : Nat :=
  if h : i.val < payload.length then payload[i.val].toNat else pad[i].toNat

/-- W2 and W3 of an encoding: byte i at bits 8i+7:8i of its word (R36). -/
def dataWord (payload : List Byte) (pad : Pad) (i0 i1 i2 i3 : Fin 8) : Word32 :=
  BitVec.ofNat 32 (byteAt payload pad i0 + 2 ^ 8 * byteAt payload pad i1 + 2 ^ 16 * byteAt payload pad i2 +
    2 ^ 24 * byteAt payload pad i3)

/-- A layout with a given ID word value, dlc, payload and pad (R64). -/
def layoutOf (w0 dlc : Nat) (payload : List Byte) (pad : Pad) : Layout :=
  { w0 := BitVec.ofNat 32 w0, w1 := BitVec.ofNat 32 dlc, w2 := dataWord payload pad 0 1 2 3,
    w3 := dataWord payload pad 4 5 6 7 }

/-- The value of an encoding's ID word (R50 to R53). -/
def idWord (f : Frame) : Nat :=
  (match f.id with | .std v => v * 2 ^ 21 | .ext v => v * 2 ^ 3 + 4) + (if f.rtr = true then 2 else 0)

/-- The layout ENCODE gives a well-formed frame (R64). -/
def encoding (f : Frame) (pad : Pad) : Layout := layoutOf (idWord f) f.dlc f.payload pad

/-- Byte lane i of a layout (R36). -/
def laneAt (l : Layout) (i : Nat) : Byte :=
  if i < 4 then BitVec.ofNat 8 (l.w2.toNat / 2 ^ (8 * i)) else BitVec.ofNat 8 (l.w3.toNat / 2 ^ (8 * (i - 4)))

/-- The eight byte lanes of a layout, lane 0 first (R73). -/
def lanesOf (l : Layout) : List Byte := (List.range 8).map (laneAt l)

/-- The raw data-length code W1[3:0] (R55). -/
def rawDlc (l : Layout) : Nat := l.w1.toNat % 16

/-- What R74 maps a raw code to where it does not raise a fault. -/
def mappedDlc (l : Layout) : Nat := if rawDlc l ≤ 8 then rawDlc l else 8

/-- R74 gives a data-length: the code is at most 8, or codes above are clamped. -/
abbrev DlcMaps (cfg : DlcAbove8) (l : Layout) : Prop := rawDlc l ≤ 8 ∨ cfg = .clamp8

/-- R74 raises DlcAboveEight. -/
abbrev DlcFaults (cfg : DlcAbove8) (l : Layout) : Prop := 9 ≤ rawDlc l ∧ cfg = .fault

/-- The DECODE port's fault output for a layout (R93). -/
def dlcFault (l : Layout) : FaultReason := .dlcAboveEight (BitVec.ofNat 4 (rawDlc l))

/-- The frame DECODE gives (R73): IDE is bit 2 of W0, RTR bit 1. -/
def decoding (l : Layout) : Frame :=
  { id := if l.w0.toNat / 4 % 2 = 0 then .std (l.w0.toNat / 2 ^ 21) else .ext (l.w0.toNat / 2 ^ 3)
    rtr := decide (l.w0.toNat / 2 % 2 = 1)
    dlc := mappedDlc l
    payload := if l.w0.toNat / 2 % 2 = 1 then [] else (lanesOf l).take (mappedDlc l) }

/-- The canonical form of R86, with its masks. -/
def canonical (l : Layout) : Layout :=
  { w0 := if l.w0.toNat / 4 % 2 = 0 then l.w0 &&& 0xFFE00002#32 else l.w0 &&& 0xFFFFFFFE#32
    w1 := BitVec.ofNat 32 (min (rawDlc l) 8), w2 := l.w2, w3 := l.w3 }

/-- The bits of W0 that DECODE reads (R75). -/
def readMask (w0 : Word32) : Word32 := if w0.toNat / 4 % 2 = 0 then 0xFFE00006#32 else 0xFFFFFFFE#32

/-- The slot a 4-bit field names (R60). -/
def slotOf (n : Nat) : SlotIdx := Fin.ofNat 16 n

end Stated
end Sys2Proof

open Sys2Proof Sys2Proof.Machine

/-! ### Launch and reset -/

/-- The launch state of R33: every slot is None but those the start state names, pc is 0, the status Running, and the parameters have
their configured values. That State.reset is such a state with no slot named and that its DLC_ABOVE_8 is Clamp8 is the model's
DESIGN CHOICE (log 4): R33 names no setting, and Clamp8 is R11's default. -/
def Obligations.LaunchStateIsClean : Prop :=
  (∀ program cfg fslots lslots, CleanLaunch (launch program cfg fslots lslots) fslots lslots ∧
    (launch program cfg fslots lslots).program = program ∧ (launch program cfg fslots lslots).dlcAbove8 = cfg) ∧
  State.reset.pc = 0 ∧ State.reset.status = .running ∧ State.reset.dlcAbove8 = .clamp8 ∧
  ∀ i, State.reset.readF i = none ∧ State.reset.readL i = none

/-! ### Encodings -/

/-- R60: where the fields of a command word stand. -/
def Obligations.CommandFieldsArePlaced : Prop :=
  ∀ (op : BitVec 4) (d s : SlotIdx),
    (encodeCommand op d s).toNat = op.toNat * 4096 + d.val * 256 + s.val * 16 ∧
    cmdOp (encodeCommand op d s) = op ∧ cmdD (encodeCommand op d s) = d ∧ cmdS (encodeCommand op d s) = s ∧
    cmdZ (encodeCommand op d s) = 0#4

/-- R61: the harness opcode map, every 16-bit word in exactly one of its three cases. -/
def Obligations.OpcodeMapDecodesEveryWord : Prop :=
  ∀ w : Word16,
    (w &&& 0xF00F#16 = 0x1000#16 →
      decodeCommand w = .ok (.enc (Stated.slotOf (w.toNat / 256)) (Stated.slotOf (w.toNat / 16)))) ∧
    (w &&& 0xF00F#16 = 0x2000#16 →
      decodeCommand w = .ok (.dec (Stated.slotOf (w.toNat / 256)) (Stated.slotOf (w.toNat / 16)))) ∧
    (w &&& 0xF00F#16 ≠ 0x1000#16 → w &&& 0xF00F#16 ≠ 0x2000#16 →
      decodeCommand w = .error (.reservedCommand w))

/-- Decoding gives back every well-formed instruction that was encoded, with every operand. -/
def Obligations.DecodeInvertsEncode : Prop :=
  ∀ i : Instr, i.wellFormed = true → decode (encode i) = .ok i

/-- What decodes was encoded: no two fetched values decode to one instruction, and what the decoder gives is well formed. -/
def Obligations.EncodeInvertsDecode : Prop :=
  ∀ (x : Fetched) (i : Instr), decode x = .ok i → encode i = x ∧ i.wellFormed = true

/-- A few words of the spec's own examples decode to the instructions they stand for. -/
def Obligations.SpecWordsDecode : Prop :=
  decodeTableWord 16 0x1100 = some (.enc 1 0) ∧
  decodeTableWord 16 0x2210 = some (.dec 2 1) ∧
  decodeTableWord 16 0x3000 = none ∧
  decodeTableWord 16 0x1001 = none ∧
  decode (.call (.decode ⟨0xFFFFFFF9#32, 0xABCD0000#32, 0#32, 0#32⟩)) =
    .ok (.decodeStdData ⟨0xFFFFFFF9#32, 0xABCD0000#32, 0#32, 0#32⟩) ∧
  decode (.call (.decode ⟨0x24600002#32, 4#32, 0#32, 0#32⟩)) = .ok (.decodeStdRemote ⟨0x24600002#32, 4#32, 0#32, 0#32⟩) ∧
  decode (.call (.decode ⟨0x91A2B3C4#32, 8#32, 0#32, 0#32⟩)) = .ok (.decodeExtData ⟨0x91A2B3C4#32, 8#32, 0#32, 0#32⟩) ∧
  decode (.call (.decode ⟨0xFFFFFFFF#32, 15#32, 0#32, 0#32⟩)) = .ok (.decodeExtRemote ⟨0xFFFFFFFF#32, 15#32, 0#32, 0#32⟩)

/-- R56: the four formats partition all layouts by W0 under the mask 6, DECODE dispatches on them, and ENCODE's result has
the bits of its format's pattern: the row under its mask, and W1 only a dlc. -/
def Obligations.FormatsPartitionLayouts : Prop :=
  (∀ l : Layout,
    (l.w0 &&& 6#32 = 0#32 ∧ decodeCall (.decode l) = .decodeStdData l) ∨
    (l.w0 &&& 6#32 = 2#32 ∧ decodeCall (.decode l) = .decodeStdRemote l) ∨
    (l.w0 &&& 6#32 = 4#32 ∧ decodeCall (.decode l) = .decodeExtData l) ∨
    (l.w0 &&& 6#32 = 6#32 ∧ decodeCall (.decode l) = .decodeExtRemote l)) ∧
  (∀ f pad l, encodeFrame f pad = .ok l →
    l.w1 &&& 0xFFFFFFF0#32 = 0#32 ∧
    match f.id, f.rtr with
    | .std _, false => l.w0 &&& 0x001FFFFF#32 = 0x0#32
    | .std _, true => l.w0 &&& 0x001FFFFF#32 = 0x2#32
    | .ext _, false => l.w0 &&& 0x7#32 = 0x4#32
    | .ext _, true => l.w0 &&& 0x7#32 = 0x6#32)

/-- The opcode table's bits read back, under the model's convention for the port (log 7): the encoding of a well-formed frame
is read as the ENCODE row of that frame, a layout that is not in canonical form as its DECODE row. -/
def Obligations.TableBitsReadBack : Prop :=
  (∀ d s, decodeTableWord 16 (encodeCommand 1#4 d s).toNat = some (.enc d s) ∧
    decodeTableWord 16 (encodeCommand 2#4 d s).toNat = some (.dec d s)) ∧
  (∀ f pad, Stated.WellFormed f →
    decodeTableWord 128 (Stated.encoding f pad).toBits = some (encodeRow f (Stated.encoding f pad).padOf)) ∧
  (∀ l : Layout, Stated.canonical l ≠ l → decodeTableWord 128 l.toBits = some (decodeRow l))

/-! ### The step -/

/-- A step runs the decoded instruction: the command at the pc of a running harness with no call pending, or the oldest call,
taken off the queue (log 5). -/
def Obligations.StepRunsDecodedInstruction : Prop :=
  (∀ s w i, s.calls = [] → s.status = .running → s.program[s.pc]? = some w → decode (.command w) = .ok i →
    step s = exec i s) ∧
  (∀ s c rest i, s.calls = c :: rest → decode (.call c) = .ok i → step s = exec i { s with calls := rest })

/-- A table word placed in the state is what the next step runs. How a word is placed is the model's choice (log 8, DESIGN CHOICE), and
so is which port's instruction a layout's bits are read as (log 7, DESIGN CHOICE). -/
def Obligations.PlacedTableWordIsRun : Prop :=
  ∀ s nbits w i, decodeTableWord nbits w = some i →
    (nbits = 16 → ∃ p : List Word16, p[s.pc]? = some (BitVec.ofNat 16 w) ∧ p.take s.pc = s.program.take s.pc ++ List.replicate (s.pc - s.program.length) 0#16 ∧
      p.drop (s.pc + 1) = s.program.drop (s.pc + 1) ∧
      step (s.withFetchWord nbits w) = exec i { s with calls := [], status := .running, program := p }) ∧
    (nbits ≠ 16 → step (s.withFetchWord nbits w) = exec i s)

/-- R30: the program counter. A completed command advances it by 1; a command that faults or is refused leaves it and ends
the run; a running harness at the end of its program becomes Done; nothing else writes it. -/
def Obligations.ProgramCounterCountsCommands : Prop :=
  (∀ s, s.calls = [] → s.status = .running → s.pc = s.program.length → step s = .next { s with status := .done }) ∧
  (∀ s, s.calls = [] → s.status = .running → s.pc < s.program.length → ∃ t, step s = .next t ∧
    ((t.pc = s.pc + 1 ∧ t.status = .running) ∨
      (t.pc = s.pc ∧ ((∃ r, t.status = .faulted r s.pc) ∨ ∃ r, t.status = .refused r s.pc)))) ∧
  (∀ s t, step s = .next t → (s.calls ≠ [] ∨ s.status ≠ .running) → t.pc = s.pc)

/-- R95: a reserved command word is refused, which ends the run and changes nothing else. -/
def Obligations.ReservedCommandIsRefused : Prop :=
  ∀ s w, s.calls = [] → s.status = .running → s.program[s.pc]? = some w →
    (w.extractLsb' 12 4 ≠ 1#4 ∧ w.extractLsb' 12 4 ≠ 2#4) ∨ w.extractLsb' 0 4 ≠ 0#4 →
    step s = .next { s with status := .refused (.reservedCommand w) s.pc }

/-- A harness that has stopped stays as it stopped over any number of steps: no handler, no return, no command (R97, R98 for Faulted
and Refused, R30 for Done). That its steps go on answering next states, and that Done is kept as the other two are, is the model's
reading (log 9, DEDUCED); R98 speaks of faults and refusals alone. Calls still pending are served meanwhile (log 5). -/
def Obligations.StoppedHarnessIsSticky : Prop :=
  ∀ n s, s.status ≠ .running → ∃ t, runFor n s = .next t ∧
    t.status = s.status ∧ t.pc = s.pc ∧ t.fslots = s.fslots ∧ t.lslots = s.lslots ∧ t.draws = s.draws

/-- What a fault does (R97). In the harness it records the reason and the pc and changes no slot, no pc and no port; a refusal
likewise. At the ENCODE port `ok` is false, the reason is given and no layout; at the DECODE port alike. That no further command
executes is said as a step that answers the same state, for Done too: that clause is the model's reading (log 9, DEDUCED). A fault of
an ENC may use up a pad draw (log 3, DEDUCED). -/
def Obligations.FaultsAreRecordedAndPrecise : Prop :=
  (∀ s t r p, s.calls = [] → s.status = .running → step s = .next t → t.status = .faulted r p →
    p = s.pc ∧ t = { s with status := .faulted r s.pc, draws := t.draws }) ∧
  (∀ s t r p, s.calls = [] → s.status = .running → step s = .next t → t.status = .refused r p →
    p = s.pc ∧ t = { s with status := .refused r s.pc }) ∧
  (∀ s, s.calls = [] → s.status ≠ .running → step s = .next s) ∧
  (∀ f pad s d, Stated.firstDefect f = some d → ∃ t out, exec (encodeRow f pad) s = .next t ∧ t.encodeOut = some out ∧
    out.isOk = false ∧ out.value? = none ∧ out.fault? = some (.frameInvariantViolation d f)) ∧
  (∀ l s, Stated.DlcFaults s.dlcAbove8 l → ∃ t out, exec (decodeRow l) s = .next t ∧ t.decodeOut = some out ∧
    out.isOk = false ∧ out.value? = none ∧ out.fault? = some (Stated.dlcFault l))

/-- R91: the codes and the reason subcodes. -/
def Obligations.FaultCodesMatchInventory : Prop :=
  (∀ d f, FaultReason.code (.frameInvariantViolation d f) = 1) ∧
  (∀ raw, FaultReason.code (.dlcAboveEight raw) = 2) ∧
  (∀ file i, FaultReason.code (.unwrittenSlot file i) = 3) ∧
  (∀ w, refuseCode (.reservedCommand w) = 4) ∧
  FrameDefect.subcode .idOutOfRange = 1 ∧ FrameDefect.subcode .dlcOutOfRange = 2 ∧
  FrameDefect.subcode .payloadLengthMismatch = 3

/-! ### The harness commands -/

/-- R72: ENC. An unwritten source faults; an ill-formed frame faults with its first defect; a well-formed frame is encoded
into L[d], with the next pad of the oracle, and the pc advances. Everything else stays. How many pads are drawn when the frame is
ill-formed is left open (log 3). -/
def Obligations.EncEncodesIntoSlot : Prop :=
  ∀ (d src : SlotIdx) (s : State),
    (s.readF src = none →
      exec (.enc d src) s = .next { s with status := .faulted (.unwrittenSlot .f src) s.pc }) ∧
    (∀ f defect, s.readF src = some f → Stated.firstDefect f = some defect →
      ∃ n, exec (.enc d src) s =
        .next { s with status := .faulted (.frameInvariantViolation defect f) s.pc, draws := n }) ∧
    (∀ f, s.readF src = some f → Stated.WellFormed f →
      exec (.enc d src) s =
        .next { s with
          lslots := s.lslots.set d.val (some (Stated.encoding f (Config.padDraw s.draws))) d.isLt
          pc := s.pc + 1, draws := s.draws + 1 })

/-- R82: DEC. An unwritten source faults; a code above 8 faults under the setting Fault; else the frame is written to F[d] and
the pc advances. Everything else stays; no pad is drawn. -/
def Obligations.DecDecodesIntoSlot : Prop :=
  ∀ (d src : SlotIdx) (s : State),
    (s.readL src = none →
      exec (.dec d src) s = .next { s with status := .faulted (.unwrittenSlot .l src) s.pc }) ∧
    (∀ l, s.readL src = some l → Stated.DlcFaults s.dlcAbove8 l →
      exec (.dec d src) s = .next { s with status := .faulted (Stated.dlcFault l) s.pc }) ∧
    (∀ l, s.readL src = some l → Stated.DlcMaps s.dlcAbove8 l →
      exec (.dec d src) s =
        .next { s with fslots := s.fslots.set d.val (some (Stated.decoding l)) d.isLt, pc := s.pc + 1 })

/-- R90: ENC is a function of its operands and the pad drawn, and what it gives holds for WHATEVER pad the oracle supplies. That the
oracle is a counter and an opaque constant is the model's (log 1). -/
def Obligations.EncHoldsForEveryPad : Prop :=
  (∀ (d src : SlotIdx) (s : State), exec (.enc d src) s = .next (encWith (Config.padDraw s.draws) d src s)) ∧
  (∀ (pad : Pad) (d src : SlotIdx) (s : State) (f : Frame), s.readF src = some f → Stated.WellFormed f →
    ∃ t, encWith pad d src s = t ∧ t.readL d = some (Stated.encoding f pad) ∧ t.draws = s.draws + 1 ∧
      (∀ j, j ≠ d → t.readL j = s.readL j) ∧ ∀ j, t.readF j = s.readF j)

/-- R94: the harness fault of reading an unwritten slot, raised by ENC and DEC alone, with the file and the index. -/
def Obligations.UnwrittenSlotFaults : Prop :=
  (∀ d k s, s.readF k = none →
    exec (.enc d k) s = .next { s with status := .faulted (.unwrittenSlot .f k) s.pc }) ∧
  (∀ d k s, s.readL k = none →
    exec (.dec d k) s = .next { s with status := .faulted (.unwrittenSlot .l k) s.pc }) ∧
  ∀ s t file k p, s.calls = [] → s.status = .running → step s = .next t → t.status = .faulted (.unwrittenSlot file k) p →
    ∃ w d, s.program[s.pc]? = some w ∧
      ((file = .f ∧ decodeCommand w = .ok (.enc d k) ∧ s.readF k = none) ∨
        (file = .l ∧ decodeCommand w = .ok (.dec d k) ∧ s.readL k = none))

/-! ### The ENCODE port -/

/-- R64: ENCODE, all checks, all words, every pad. -/
def Obligations.EncodeOperation : Prop :=
  ∀ (f : Frame) (pad : Pad),
    (∀ d, Stated.firstDefect f = some d → encodeFrame f pad = .fault (.frameInvariantViolation d f)) ∧
    (Stated.WellFormed f → encodeFrame f pad = .ok (Stated.encoding f pad))

/-- R67: ENCODE.STD.DATA. A well-formed frame gives the layout, with the format's fixed bits in W0; any other faults with its first
defect; nothing else changes. -/
def Obligations.EncodeStdDataCompletes : Prop :=
  ∀ (v dlc : Nat) (payload : List Byte) (pad : Pad) (s : State),
    (v < 2048 → dlc ≤ 8 → payload.length = dlc →
      exec (.encodeStdData v dlc payload pad) s =
        .next { s with encodeOut := some (.ok (Stated.layoutOf (v * 2 ^ 21) dlc payload pad)) } ∧
      (Stated.layoutOf (v * 2 ^ 21) dlc payload pad).w0 &&& 0x001FFFFF#32 = 0#32) ∧
    (∀ d, Stated.firstDefect ⟨.std v, false, dlc, payload⟩ = some d → exec (.encodeStdData v dlc payload pad) s =
      .next { s with encodeOut := some (.fault (.frameInvariantViolation d ⟨.std v, false, dlc, payload⟩)) })

/-- R68: ENCODE.STD.REMOTE. A well-formed frame gives the layout, with the format's fixed bits in W0; any other faults with its first
defect; nothing else changes. -/
def Obligations.EncodeStdRemoteCompletes : Prop :=
  ∀ (v dlc : Nat) (payload : List Byte) (pad : Pad) (s : State),
    (v < 2048 → dlc ≤ 8 → payload = [] →
      exec (.encodeStdRemote v dlc payload pad) s =
        .next { s with encodeOut := some (.ok (Stated.layoutOf (v * 2 ^ 21 + 2) dlc [] pad)) } ∧
      (Stated.layoutOf (v * 2 ^ 21 + 2) dlc [] pad).w0 &&& 0x001FFFFF#32 = 2#32) ∧
    (∀ d, Stated.firstDefect ⟨.std v, true, dlc, payload⟩ = some d → exec (.encodeStdRemote v dlc payload pad) s =
      .next { s with encodeOut := some (.fault (.frameInvariantViolation d ⟨.std v, true, dlc, payload⟩)) })

/-- R69: ENCODE.EXT.DATA. A well-formed frame gives the layout, with the format's fixed bits in W0; any other faults with its first
defect; nothing else changes. -/
def Obligations.EncodeExtDataCompletes : Prop :=
  ∀ (v dlc : Nat) (payload : List Byte) (pad : Pad) (s : State),
    (v < 536870912 → dlc ≤ 8 → payload.length = dlc →
      exec (.encodeExtData v dlc payload pad) s =
        .next { s with encodeOut := some (.ok (Stated.layoutOf (v * 2 ^ 3 + 4) dlc payload pad)) } ∧
      (Stated.layoutOf (v * 2 ^ 3 + 4) dlc payload pad).w0 &&& 0x7#32 = 4#32) ∧
    (∀ d, Stated.firstDefect ⟨.ext v, false, dlc, payload⟩ = some d → exec (.encodeExtData v dlc payload pad) s =
      .next { s with encodeOut := some (.fault (.frameInvariantViolation d ⟨.ext v, false, dlc, payload⟩)) })

/-- R70: ENCODE.EXT.REMOTE. A well-formed frame gives the layout, with the format's fixed bits in W0; any other faults with its first
defect; nothing else changes. -/
def Obligations.EncodeExtRemoteCompletes : Prop :=
  ∀ (v dlc : Nat) (payload : List Byte) (pad : Pad) (s : State),
    (v < 536870912 → dlc ≤ 8 → payload = [] →
      exec (.encodeExtRemote v dlc payload pad) s =
        .next { s with encodeOut := some (.ok (Stated.layoutOf (v * 2 ^ 3 + 6) dlc [] pad)) } ∧
      (Stated.layoutOf (v * 2 ^ 3 + 6) dlc [] pad).w0 &&& 0x7#32 = 6#32) ∧
    (∀ d, Stated.firstDefect ⟨.ext v, true, dlc, payload⟩ = some d → exec (.encodeExtRemote v dlc payload pad) s =
      .next { s with encodeOut := some (.fault (.frameInvariantViolation d ⟨.ext v, true, dlc, payload⟩)) })

/-- R92: FrameInvariantViolation. A frame that fails a check is rejected at the port, whichever row it belongs to: the reason is that
of the first failing check, no layout is produced and nothing else changes; and each reason is given exactly for its check. -/
def Obligations.IllFormedFramesAreRejected : Prop :=
  (∀ (f : Frame) (pad : Pad) (s : State), ¬ Stated.WellFormed f → ∃ d, Stated.firstDefect f = some d ∧
    exec (encodeRow f pad) s = .next { s with encodeOut := some (.fault (.frameInvariantViolation d f)) }) ∧
  (∀ (f g : Frame) (pad : Pad) (s t : State) (d : FrameDefect), exec (encodeRow f pad) s = .next t →
    t.encodeOut = some (.fault (.frameInvariantViolation d g)) →
    g = f ∧ match d with
      | .idOutOfRange => Stated.idLimit f.id ≤ Stated.idNumber f.id
      | .dlcOutOfRange => 8 < f.dlc
      | .payloadLengthMismatch => f.payload.length ≠ Stated.payloadDue f)

/-- R96: which fault one operation reports: ENCODE's three reasons in their order; for ENC and DEC the reserved word, then the
unwritten source slot, then ENCODE's or DECODE's own fault. -/
def Obligations.FaultPriority : Prop :=
  (∀ f pad, Stated.idLimit f.id ≤ Stated.idNumber f.id → encodeFrame f pad = .fault (.frameInvariantViolation .idOutOfRange f)) ∧
  (∀ f pad, Stated.idNumber f.id < Stated.idLimit f.id → 8 < f.dlc → encodeFrame f pad = .fault (.frameInvariantViolation .dlcOutOfRange f)) ∧
  (∀ f pad, Stated.idNumber f.id < Stated.idLimit f.id → f.dlc ≤ 8 → f.payload.length ≠ Stated.payloadDue f →
    encodeFrame f pad = .fault (.frameInvariantViolation .payloadLengthMismatch f)) ∧
  (∀ d k s, s.readF k = none → ∃ t, exec (.enc d k) s = .next t ∧ t.status = .faulted (.unwrittenSlot .f k) s.pc) ∧
  (∀ d k s f defect, s.readF k = some f → Stated.firstDefect f = some defect →
    ∃ t, exec (.enc d k) s = .next t ∧ t.status = .faulted (.frameInvariantViolation defect f) s.pc) ∧
  (∀ d k s, s.readL k = none → ∃ t, exec (.dec d k) s = .next t ∧ t.status = .faulted (.unwrittenSlot .l k) s.pc) ∧
  (∀ d k s l, s.readL k = some l → Stated.DlcFaults s.dlcAbove8 l →
    ∃ t, exec (.dec d k) s = .next t ∧ t.status = .faulted (Stated.dlcFault l) s.pc) ∧
  (∀ s w r, s.calls = [] → s.status = .running → s.program[s.pc]? = some w → decodeCommand w = .error r →
    ∃ t, step s = .next t ∧ t.status = .refused (.reservedCommand w) s.pc)

/-- R36: payload byte i is byte lane i, for every bit j of it. -/
def Obligations.PayloadBytesFillTheirLanes : Prop :=
  ∀ f pad l, encodeFrame f pad = .ok l → ∀ (i j : Nat) (hi : i < f.payload.length), j < 8 → i < 8 →
    (i < 4 → l.w2.getLsbD (8 * i + j) = f.payload[i].getLsbD j) ∧
    (4 ≤ i → l.w3.getLsbD (8 * (i - 4) + j) = f.payload[i].getLsbD j)

/-- R66: lane i of an encoding holds payload byte i where there is one and else the pad's byte i; and the bits the codec reserves are
written 0 (R57). -/
def Obligations.PadAndZerosFillTheRest : Prop :=
  ∀ f pad l, encodeFrame f pad = .ok l →
    (∀ i : Fin 8, (∀ h : i.val < f.payload.length, Stated.laneAt l i.val = f.payload[i.val]) ∧
      (f.payload.length ≤ i.val → Stated.laneAt l i.val = pad[i])) ∧
    (f.rtr = true → ∀ i : Fin 8, Stated.laneAt l i.val = pad[i]) ∧
    l.w0.getLsbD 0 = false ∧ (f.id.kind = .standard → ∀ i, 3 ≤ i → i < 21 → l.w0.getLsbD i = false) ∧
    ∀ i, 4 ≤ i → i < 32 → l.w1.getLsbD i = false

/-- R37: the identifier stands most significant bit first at the top of W0. -/
def Obligations.IdentifierBitsArePlaced : Prop :=
  (∀ v rtr dlc payload pad l i, encodeFrame ⟨.std v, rtr, dlc, payload⟩ pad = .ok l → i < 11 →
    l.w0.getLsbD (21 + i) = v.testBit i) ∧
  (∀ v rtr dlc payload pad l i, encodeFrame ⟨.ext v, rtr, dlc, payload⟩ pad = .ok l → i < 29 →
    l.w0.getLsbD (3 + i) = v.testBit i)

/-- R54: an encoding never sets the request bit W0[0], and DECODE ignores it. -/
def Obligations.RequestBitIsNotTheCodecs : Prop :=
  (∀ f pad l, encodeFrame f pad = .ok l → l.w0.getLsbD 0 = false) ∧
  (∀ cfg l, decodeLayout cfg { l with w0 := l.w0 ||| 1#32 } = decodeLayout cfg l) ∧
  (∀ cfg l, decodeLayout cfg { l with w0 := l.w0 &&& 0xFFFFFFFE#32 } = decodeLayout cfg l)

/-- R71: the kind is never inferred from the value: an Ext value is encoded as an extended frame however small, a Std value as a
standard one, and no two of different kind share W0. -/
def Obligations.KindIsNeverInferred : Prop :=
  (∀ v rtr dlc payload pad l, encodeFrame ⟨.ext v, rtr, dlc, payload⟩ pad = .ok l →
    l.w0.toNat = v * 2 ^ 3 + 4 + (if rtr = true then 2 else 0) ∧ l.w0.getLsbD 2 = true) ∧
  (∀ v rtr dlc payload pad l, encodeFrame ⟨.std v, rtr, dlc, payload⟩ pad = .ok l →
    l.w0.toNat = v * 2 ^ 21 + (if rtr = true then 2 else 0) ∧ l.w0.getLsbD 2 = false)

/-! ### The DECODE port -/

/-- R74: the data-length mapping, for every raw code and both settings. -/
def Obligations.DlcMapClampsOrFaults : Prop :=
  (∀ cfg (raw : BitVec 4), raw.toNat ≤ 8 → dlcMap cfg raw = .ok raw.toNat) ∧
  (∀ raw : BitVec 4, 9 ≤ raw.toNat → dlcMap .clamp8 raw = .ok 8 ∧ dlcMap .fault raw = .fault (.dlcAboveEight raw))

/-- R73: DECODE, every layout, both settings. -/
def Obligations.DecodeOperation : Prop :=
  ∀ (cfg : DlcAbove8) (l : Layout),
    (Stated.DlcMaps cfg l → decodeLayout cfg l = .ok (Stated.decoding l)) ∧
    (Stated.DlcFaults cfg l → decodeLayout cfg l = .fault (Stated.dlcFault l))

/-- R76: DECODE.STD.DATA. A layout of the format gives the frame where DLC_MAP gives a data-length, else the fault DlcAboveEight;
nothing else changes. -/
def Obligations.DecodeStdDataCompletes : Prop :=
  ∀ (l : Layout) (s : State), l.w0 &&& 6#32 = 0#32 →
    (Stated.DlcMaps s.dlcAbove8 l → exec (.decodeStdData l) s =
      .next { s with decodeOut := some (.ok ⟨.std (l.w0.toNat / 2 ^ 21), false, Stated.mappedDlc l,
        (Stated.lanesOf l).take (Stated.mappedDlc l)⟩) }) ∧
    (Stated.DlcFaults s.dlcAbove8 l → exec (.decodeStdData l) s =
      .next { s with decodeOut := some (.fault (Stated.dlcFault l)) })

/-- R77: DECODE.STD.REMOTE. A layout of the format gives the frame where DLC_MAP gives a data-length, else the fault DlcAboveEight;
nothing else changes. -/
def Obligations.DecodeStdRemoteCompletes : Prop :=
  ∀ (l : Layout) (s : State), l.w0 &&& 6#32 = 2#32 →
    (Stated.DlcMaps s.dlcAbove8 l → exec (.decodeStdRemote l) s =
      .next { s with decodeOut := some (.ok ⟨.std (l.w0.toNat / 2 ^ 21), true, Stated.mappedDlc l,
        []⟩) }) ∧
    (Stated.DlcFaults s.dlcAbove8 l → exec (.decodeStdRemote l) s =
      .next { s with decodeOut := some (.fault (Stated.dlcFault l)) })

/-- R78: DECODE.EXT.DATA. A layout of the format gives the frame where DLC_MAP gives a data-length, else the fault DlcAboveEight;
nothing else changes. -/
def Obligations.DecodeExtDataCompletes : Prop :=
  ∀ (l : Layout) (s : State), l.w0 &&& 6#32 = 4#32 →
    (Stated.DlcMaps s.dlcAbove8 l → exec (.decodeExtData l) s =
      .next { s with decodeOut := some (.ok ⟨.ext (l.w0.toNat / 2 ^ 3), false, Stated.mappedDlc l,
        (Stated.lanesOf l).take (Stated.mappedDlc l)⟩) }) ∧
    (Stated.DlcFaults s.dlcAbove8 l → exec (.decodeExtData l) s =
      .next { s with decodeOut := some (.fault (Stated.dlcFault l)) })

/-- R79: DECODE.EXT.REMOTE. A layout of the format gives the frame where DLC_MAP gives a data-length, else the fault DlcAboveEight;
nothing else changes. -/
def Obligations.DecodeExtRemoteCompletes : Prop :=
  ∀ (l : Layout) (s : State), l.w0 &&& 6#32 = 6#32 →
    (Stated.DlcMaps s.dlcAbove8 l → exec (.decodeExtRemote l) s =
      .next { s with decodeOut := some (.ok ⟨.ext (l.w0.toNat / 2 ^ 3), true, Stated.mappedDlc l,
        []⟩) }) ∧
    (Stated.DlcFaults s.dlcAbove8 l → exec (.decodeExtRemote l) s =
      .next { s with decodeOut := some (.fault (Stated.dlcFault l)) })

/-- R75: the bits DECODE ignores. Two layouts that agree on the bits of W0 read for their kind, on W1[3:0] and, for a data frame, on
the lanes below the data-length decode alike. -/
def Obligations.DecodeIgnoresReservedBits : Prop :=
  ∀ (cfg : DlcAbove8) (l m : Layout),
    l.w0 &&& Stated.readMask l.w0 = m.w0 &&& Stated.readMask l.w0 →
    Stated.rawDlc l = Stated.rawDlc m →
    (l.w0.getLsbD 1 = false → ∀ i, i < Stated.mappedDlc l → Stated.laneAt l i = Stated.laneAt m i) →
    decodeLayout cfg l = decodeLayout cfg m

/-- R80: DECODE gives only well-formed frames. -/
def Obligations.DecodeGivesWellFormedFrames : Prop :=
  ∀ (cfg : DlcAbove8) (l : Layout) (f : Frame), decodeLayout cfg l = .ok f → Stated.WellFormed f

/-- R59: DECODE is total on layouts under Clamp8 and faults on exactly the codes above 8 under Fault; ENCODE is total on
well-formed frames and on no others. -/
def Obligations.OperationsAreTotal : Prop :=
  (∀ l, ∃ f, decodeLayout .clamp8 l = .ok f) ∧
  (∀ l, (∃ r, decodeLayout .fault l = .fault r) ↔ 9 ≤ Stated.rawDlc l) ∧
  (∀ f pad, (∃ l, encodeFrame f pad = .ok l) ↔ Stated.WellFormed f)

/-! ### The laws -/

/-- R83: the round trip, for every well-formed frame, every pad and either setting. -/
def Obligations.DecodeOfEncodeIsTheFrame : Prop :=
  ∀ (f : Frame) (pad : Pad) (cfg : DlcAbove8), Stated.WellFormed f →
    ∃ l, encodeFrame f pad = .ok l ∧ decodeLayout cfg l = .ok f

/-- R84: two encodings of a frame differ in the pad lanes alone, which hold the pads' bytes, and decode alike. -/
def Obligations.PadsFillOnlyPadLanes : Prop :=
  ∀ (f : Frame) (p q : Pad) (cfg : DlcAbove8), Stated.WellFormed f →
    ∃ l m, encodeFrame f p = .ok l ∧ encodeFrame f q = .ok m ∧ l.w0 = m.w0 ∧ l.w1 = m.w1 ∧
      (∀ i : Fin 8, i.val < f.payload.length → Stated.laneAt l i.val = Stated.laneAt m i.val) ∧
      (∀ i : Fin 8, f.payload.length ≤ i.val → Stated.laneAt l i.val = p[i] ∧ Stated.laneAt m i.val = q[i]) ∧
      decodeLayout cfg l = decodeLayout cfg m

/-- R85: ENCODE is injective on well-formed frames, whatever the pads. -/
def Obligations.EncodeIsInjective : Prop :=
  ∀ (f g : Frame) (p q : Pad), Stated.WellFormed f → Stated.WellFormed g → encodeFrame f p = encodeFrame g q → f = g

/-- R86: the canonical form, under Clamp8; when a layout is its own canonical form; and that DECODE is not injective. -/
def Obligations.ReencodingGivesCanonicalForm : Prop :=
  (∀ l : Layout, ∃ f, decodeLayout .clamp8 l = .ok f ∧ encodeFrame f l.padOf = .ok (Stated.canonical l) ∧
    (encodeFrame f l.padOf = .ok l ↔ l = Stated.canonical l)) ∧
  (∀ (l : Layout) (i : Fin 8), l.padOf[i] = Stated.laneAt l i.val) ∧
  (∀ l : Layout, l = Stated.canonical l ↔
    l.w0.getLsbD 0 = false ∧ (l.w0.getLsbD 2 = false → ∀ i, 3 ≤ i → i < 21 → l.w0.getLsbD i = false) ∧
    (∀ i, 4 ≤ i → i < 32 → l.w1.getLsbD i = false) ∧ Stated.rawDlc l ≤ 8) ∧
  (∃ l m : Layout, l ≠ m ∧ decodeLayout .clamp8 l = decodeLayout .clamp8 m)

/-- R87: the format of an encoding is that of the frame's kind and rtr, and DECODE maps it back. -/
def Obligations.FormatIsPreserved : Prop :=
  (∀ f pad l, encodeFrame f pad = .ok l → l.format = Format.of f.id.kind f.rtr) ∧
  (∀ cfg l f, decodeLayout cfg l = .ok f → Format.of f.id.kind f.rtr = l.format)

/-! ### Rules over all steps -/

/-- Run control stays coherent: a recorded fault or refusal is always one that the command at the pc really raises. For a step of a
stopped harness it rests on the model's reading that the state stays as it is (log 9, DEDUCED). -/
def Obligations.EveryStepKeepsRunControlSound : Prop :=
  ∀ s t, RunControlSound s → step s = .next t → RunControlSound t

/-- Port outputs stay in form: encodings canonical, decoded frames well formed, no DECODE fault under Clamp8. That State keeps the
outputs of the last call served is the model's choice (log 6, DESIGN CHOICE). -/
def Obligations.EveryStepKeepsPortsSound : Prop :=
  ∀ s t, PortsSound s → step s = .next t → PortsSound t

/-- If every frame the harness holds is well formed, it stays so. -/
def Obligations.EveryStepKeepsFramesWellFormed : Prop :=
  ∀ s t, FramesWellFormed s → step s = .next t → FramesWellFormed t

/-- The invariants hold at reset. From the launch state (R33, 10_state.md section 5) come pc 0, the status Running and, with no slot
named, slots that hold no frame. R33 gives the ports no output at reset: PortsSound holds there because both port outputs are none,
which is the model's choice (log 6, DESIGN CHOICE); that State.reset has no slot named and an empty program is log 4 (DESIGN CHOICE). -/
def Obligations.ResetMeetsTheInvariants : Prop :=
  RunControlSound State.reset ∧ PortsSound State.reset ∧ FramesWellFormed State.reset

/-- A machine whose run control is sound never stops the model: every step has a next state. The stop ruled out, of a running harness
with a pc beyond its program, is the model's own (log 10, DESIGN CHOICE); that a Done, Faulted or Refused harness with no call waiting
answers a next state is the model's reading (log 9, DEDUCED); that a waiting call is served first is log 5 (DESIGN CHOICE); and that a
command's fault or refusal is a next state is log 11 (DEDUCED). From the rules come the end of a run (R30) and what a fault does (R97). -/
def Obligations.SoundMachineNeverStops : Prop :=
  ∀ s, RunControlSound s → ∃ t, step s = .next t

/-- No step writes the program or the parameter. That they stand in State is the model's choice (log 4, DESIGN CHOICE). -/
def Obligations.NoStepWritesTheParameters : Prop :=
  ∀ s t, step s = .next t → t.program = s.program ∧ t.dlcAbove8 = s.dlcAbove8

/-- With well-formed frames and Clamp8, no command of the harness ever raises a fault of the codec. -/
def Obligations.CodecNeverFaultsOnSoundOperands : Prop :=
  ∀ s t r p, FramesWellFormed s → s.dlcAbove8 = .clamp8 → s.status = .running → step s = .next t →
    t.status = .faulted r p → ∃ file k, r = .unwrittenSlot file k

/-- A step changes at most one slot: a frame slot only by a DEC, a layout slot only by an ENC, a port call none. That a step serves
a waiting call before a command is log 5 (DESIGN CHOICE); that a step of a stopped harness changes nothing is log 9 (DEDUCED). -/
def Obligations.StepWritesAtMostOneSlot : Prop :=
  ∀ s t, step s = .next t →
    (t.fslots = s.fslots ∧ t.lslots = s.lslots) ∨
    (∃ w d k, s.calls = [] ∧ s.program[s.pc]? = some w ∧ decodeCommand w = .ok (.dec d k) ∧ t.lslots = s.lslots ∧
      ∀ j, j ≠ d → t.readF j = s.readF j) ∨
    (∃ w d k, s.calls = [] ∧ s.program[s.pc]? = some w ∧ decodeCommand w = .ok (.enc d k) ∧ t.fslots = s.fslots ∧
      ∀ j, j ≠ d → t.readL j = s.readL j)

/-- R28: the two ports share nothing. A call sets the outputs of its own port and leaves the other port and the whole harness
as they were. The queue a call is taken from is log 5, and that State keeps the outputs is log 6 (both DESIGN CHOICE). -/
def Obligations.PortsShareNothing : Prop :=
  (∀ s f pad rest, s.calls = .encode f pad :: rest →
    step s = .next { s with calls := rest, encodeOut := some (encodeFrame f pad) }) ∧
  (∀ s l rest, s.calls = .decode l :: rest →
    step s = .next { s with calls := rest, decodeOut := some (decodeLayout s.dlcAbove8 l) })

/-- R17: results depend on the operation's inputs alone, never on what came before. -/
def Obligations.ResultsDependOnInputsAlone : Prop :=
  (∀ f pad s₁ s₂, ∃ t₁ t₂, exec (encodeRow f pad) s₁ = .next t₁ ∧ exec (encodeRow f pad) s₂ = .next t₂ ∧
    t₁.encodeOut = t₂.encodeOut) ∧
  (∀ l s₁ s₂, s₁.dlcAbove8 = s₂.dlcAbove8 → ∃ t₁ t₂, exec (decodeRow l) s₁ = .next t₁ ∧ exec (decodeRow l) s₂ = .next t₂ ∧
    t₁.decodeOut = t₂.decodeOut)

/-- R111: preemption is harmless. A port call before or after a harness command, or calls at the two ports in either order, end in
the same state, the kept port outputs included (log 6, DESIGN CHOICE); operations run one after another (log 15, DEDUCED). -/
def Obligations.PreemptionChangesNoResult : Prop :=
  (∀ c d k s, ∃ s₁ s₂ t, exec (decodeCall c) s = .next s₁ ∧ exec (.enc d k) s₁ = .next t ∧
    exec (.enc d k) s = .next s₂ ∧ exec (decodeCall c) s₂ = .next t) ∧
  (∀ c d k s, ∃ s₁ s₂ t, exec (decodeCall c) s = .next s₁ ∧ exec (.dec d k) s₁ = .next t ∧
    exec (.dec d k) s = .next s₂ ∧ exec (decodeCall c) s₂ = .next t) ∧
  (∀ f pad l s, ∃ s₁ s₂ t, exec (decodeCall (.encode f pad)) s = .next s₁ ∧ exec (decodeCall (.decode l)) s₁ = .next t ∧
    exec (decodeCall (.decode l)) s = .next s₂ ∧ exec (decodeCall (.encode f pad)) s₂ = .next t)

/-! ### Programs of any kind -/

/-- Every run ends: with the pc within the program, it has stopped after one step for each call pending, one for each command left
and one more, and no call is left. That calls wait in a queue served before commands is log 5 (DESIGN CHOICE); that a run which
stopped early answers the same state for the rest of the steps is log 9 (DEDUCED). -/
def Obligations.EveryRunEnds : Prop :=
  ∀ s, s.pc ≤ s.program.length →
    ∃ t, runFor (s.calls.length + (s.program.length - s.pc) + 1) s = .next t ∧ t.status ≠ .running ∧ t.calls = []

/-- R63: the round-trip pseudo-instruction at any place of any program gives the destination slot the source slot's frame,
whatever the pad. -/
def Obligations.RoundTripPseudoInstruction : Prop :=
  ∀ (a b c : Nat) (d src t : SlotIdx) (s : State) (f : Frame) (w₁ w₂ : Word16),
    a = d.val → b = src.val → c = t.val → assembleLine (.rt a b c) = some [w₁, w₂] →
    s.calls = [] → s.status = .running → s.program[s.pc]? = some w₁ → s.program[s.pc + 1]? = some w₂ →
    s.readF src = some f → Stated.WellFormed f →
    ∃ u, runFor 2 s = .next u ∧ u.readF d = some f ∧ u.pc = s.pc + 2 ∧ u.status = .running ∧
      (∃ pad, u.readL t = some (Stated.encoding f pad)) ∧
      (∀ j, j ≠ d → u.readF j = s.readF j) ∧ ∀ j, j ≠ t → u.readL j = s.readL j

/-- R62: what each line of assembly assembles to, and that a slot name above 15 does not assemble; R63: RT expands to ENC,
then DEC. -/
def Obligations.AssemblyGivesCommandWords : Prop :=
  (∀ l f, l < 16 → f < 16 → assembleLine (.enc l f) = some [BitVec.ofNat 16 (0x1000 + l * 256 + f * 16)]) ∧
  (∀ f l, f < 16 → l < 16 → assembleLine (.dec f l) = some [BitVec.ofNat 16 (0x2000 + f * 256 + l * 16)]) ∧
  (∀ x y, 16 ≤ x ∨ 16 ≤ y → assembleLine (.enc x y) = none ∧ assembleLine (.dec x y) = none) ∧
  (∀ d s t, assembleLine (.rt d s t) = assemble [.enc t s, .dec d t])
end

