-- ==== Sys2Proof/Laws/Codec.lean ====
section
/-! SUPPORT. What the checks, ENCODE and DECODE answer (spec/10_state.md R20 to R23, spec/40_encode.md R64, spec/41_decode.md
R73, R74). -/

namespace Sys2Proof

/-! ### The checks -/

theorem Frame.idInRange_std (f : Frame) (v : Nat) (h : f.id = .std v) :
    f.idInRange = true ↔ v < 2 ^ 11 := by
  rw [Frame.idInRange, h]
  exact decide_eq_true_iff

theorem Frame.idInRange_ext (f : Frame) (v : Nat) (h : f.id = .ext v) :
    f.idInRange = true ↔ v < 2 ^ 29 := by
  rw [Frame.idInRange, h]
  exact decide_eq_true_iff

theorem Frame.dlcInRange_iff (f : Frame) : f.dlcInRange = true ↔ f.dlc ≤ 8 := decide_eq_true_iff

theorem Frame.payloadLength_iff (f : Frame) :
    f.payloadLength = true ↔ f.payload.length = if f.rtr then 0 else f.dlc := by
  simp [Frame.payloadLength]

theorem Frame.wf_iff (f : Frame) :
    f.wf = true ↔ f.idInRange = true ∧ f.dlcInRange = true ∧ f.payloadLength = true := by
  simp [Frame.wf, and_assoc]

/-! ### The layout's fields -/

@[simp] theorem Layout.lanes_length (l : Layout) : l.lanes.length = 8 := rfl

theorem Layout.stdId_lt (l : Layout) : l.stdId < 2 ^ 11 := (l.w0.extractLsb' 21 11).isLt

theorem Layout.extId_lt (l : Layout) : l.extId < 2 ^ 29 := (l.w0.extractLsb' 3 29).isLt

theorem Layout.padOf_toList (l : Layout) : l.padOf.toList = l.lanes := rfl

@[simp] theorem Layout.frameAs_id (l : Layout) (k : Kind) (b : Bool) (n : Nat) : (l.frameAs k b n).id = l.idAs k := rfl
@[simp] theorem Layout.frameAs_rtr (l : Layout) (k : Kind) (b : Bool) (n : Nat) : (l.frameAs k b n).rtr = b := rfl
@[simp] theorem Layout.frameAs_dlc (l : Layout) (k : Kind) (b : Bool) (n : Nat) : (l.frameAs k b n).dlc = n := rfl

@[simp] theorem Layout.idAs_kind (l : Layout) (k : Kind) : (l.idAs k).kind = k := by cases k <;> rfl

@[simp] theorem Frame.pack_w0 (f : Frame) (pad : Pad) : (f.pack pad).w0 = packW0 f.id f.rtr := rfl
@[simp] theorem Frame.pack_w1 (f : Frame) (pad : Pad) : (f.pack pad).w1 = packW1 f.dlc := rfl
@[simp] theorem Frame.pack_w2 (f : Frame) (pad : Pad) : (f.pack pad).w2 = packW2 f.payload pad := rfl
@[simp] theorem Frame.pack_w3 (f : Frame) (pad : Pad) : (f.pack pad).w3 = packW3 f.payload pad := rfl

namespace Machine

/-! ### ENCODE -/

theorem frameDefect_eq_none_iff (f : Frame) : frameDefect f = none ↔ f.wf = true := by
  unfold frameDefect Frame.wf
  cases f.idInRange <;> cases f.dlcInRange <;> cases f.payloadLength <;> simp

theorem encodeFrame_of_wf {f : Frame} (h : f.wf = true) (pad : Pad) : encodeFrame f pad = .ok (f.pack pad) := by
  simp [encodeFrame, (frameDefect_eq_none_iff f).2 h]

theorem encodeFrame_of_defect {f : Frame} {d : FrameDefect} (h : frameDefect f = some d) (pad : Pad) :
    encodeFrame f pad = .fault (.frameInvariantViolation d f) := by
  simp [encodeFrame, h]

/-- ENCODE answers a layout exactly for a well-formed frame, and then the frame packed. -/
theorem encodeFrame_eq_ok_iff (f : Frame) (pad : Pad) (l : Layout) :
    encodeFrame f pad = .ok l ↔ f.wf = true ∧ l = f.pack pad := by
  cases hd : frameDefect f with
  | none => simp [encodeFrame, hd, (frameDefect_eq_none_iff f).1 hd, eq_comm]
  | some d =>
    have : ¬ f.wf = true := fun hw => by simp [(frameDefect_eq_none_iff f).2 hw] at hd
    simp [encodeFrame, hd, this]

/-- ENCODE faults with the frame's first defect and for no other reason. -/
theorem encodeFrame_eq_fault_iff (f : Frame) (pad : Pad) (r : FaultReason) :
    encodeFrame f pad = .fault r ↔ ∃ d, frameDefect f = some d ∧ r = .frameInvariantViolation d f := by
  cases hd : frameDefect f <;> simp [encodeFrame, hd, eq_comm]

/-! ### DECODE -/

theorem dlcMap_of_le {raw : BitVec 4} (h : raw.toNat ≤ 8) (cfg : DlcAbove8) : dlcMap cfg raw = .ok raw.toNat := by
  simp [dlcMap, Config.maxDlc, h]

theorem dlcMap_clamp (raw : BitVec 4) : dlcMap .clamp8 raw = .ok (min raw.toNat 8) := by
  unfold dlcMap Config.maxDlc
  split
  · rename_i h
    rw [Nat.min_eq_left h]
  · rename_i h
    rw [Nat.min_eq_right (by omega)]

theorem dlcMap_fault {raw : BitVec 4} (h : 9 ≤ raw.toNat) : dlcMap .fault raw = .fault (.dlcAboveEight raw) := by
  have : ¬ raw.toNat ≤ 8 := by omega
  simp [dlcMap, Config.maxDlc, this]

/-- A data-length the mapping gives is at most 8. -/
theorem dlcMap_le {cfg : DlcAbove8} {raw : BitVec 4} {n : Nat} (h : dlcMap cfg raw = .ok n) : n ≤ 8 := by
  unfold dlcMap Config.maxDlc at h
  split at h
  · cases h; assumption
  · cases cfg <;> simp at h; omega

/-- The mapping faults for one reason alone. -/
theorem dlcMap_eq_fault_iff (cfg : DlcAbove8) (raw : BitVec 4) (r : FaultReason) :
    dlcMap cfg raw = .fault r ↔ cfg = .fault ∧ 9 ≤ raw.toNat ∧ r = .dlcAboveEight raw := by
  unfold dlcMap Config.maxDlc
  split
  · simp; omega
  · cases cfg <;> simp [eq_comm]; omega

theorem decodeAs_eq_ok_iff (k : Kind) (b : Bool) (cfg : DlcAbove8) (l : Layout) (f : Frame) :
    decodeAs k b cfg l = .ok f ↔ ∃ n, dlcMap cfg l.dlcCode = .ok n ∧ f = l.frameAs k b n := by
  unfold decodeAs
  cases dlcMap cfg l.dlcCode <;> simp [eq_comm]

theorem decodeAs_eq_fault_iff (k : Kind) (b : Bool) (cfg : DlcAbove8) (l : Layout) (r : FaultReason) :
    decodeAs k b cfg l = .fault r ↔ dlcMap cfg l.dlcCode = .fault r := by
  unfold decodeAs
  cases dlcMap cfg l.dlcCode <;> simp

end Machine
end Sys2Proof
end

