-- ==== Sys2Proof/Laws/Fields.lean ====
section
/-! SUPPORT. The fields of a packed layout read back (spec/30_encoding.md R46 to R55), field by field. -/

namespace Sys2Proof

/-! ### W0 -/

theorem packW0_req (id : Identifier) (rtr : Bool) : (packW0 id rtr).getLsbD 0 = false := by
  cases id <;> cases rtr <;> simp [packW0, idBits, ideBits, rtrBits, Identifier.kind]

theorem packW0_rtr (id : Identifier) (rtr : Bool) : (packW0 id rtr).getLsbD 1 = rtr := by
  cases id <;> cases rtr <;> simp [packW0, idBits, ideBits, rtrBits, Identifier.kind]

theorem packW0_ide (id : Identifier) (rtr : Bool) : (packW0 id rtr).getLsbD 2 = decide (id.kind = .extended) := by
  cases id <;> cases rtr <;> simp [packW0, idBits, ideBits, rtrBits, Identifier.kind]

@[simp] theorem Frame.pack_ide (f : Frame) (pad : Pad) : (f.pack pad).ide = decide (f.id.kind = .extended) :=
  packW0_ide f.id f.rtr

@[simp] theorem Frame.pack_rtr (f : Frame) (pad : Pad) : (f.pack pad).rtr = f.rtr := packW0_rtr f.id f.rtr

@[simp] theorem Frame.pack_req (f : Frame) (pad : Pad) : (f.pack pad).req = false := packW0_req f.id f.rtr

@[simp] theorem Frame.pack_kind (f : Frame) (pad : Pad) : (f.pack pad).kind = f.id.kind := by
  unfold Layout.kind
  rw [Frame.pack_ide]
  cases f.id.kind <;> rfl

/-- IDE and RTR lie below every identifier field. -/
theorem flags_low (k : Kind) (rtr : Bool) : (ideBits k ||| rtrBits rtr).toNat < 2 ^ 3 := by
  cases k <;> cases rtr <;> decide

/-- The identifier field of a W0 with the flags below it, as a number. -/
theorem packW0_toNat (id : Identifier) (rtr : Bool) :
    (packW0 id rtr).toNat = (idBits id).toNat + (ideBits id.kind ||| rtrBits rtr).toNat := by
  have hlow := flags_low id.kind rtr
  have key : ∀ n k : Nat, 3 ≤ k → (n <<< k) ||| (ideBits id.kind ||| rtrBits rtr).toNat =
      n <<< k + (ideBits id.kind ||| rtrBits rtr).toNat := fun n k hk =>
    (Nat.shiftLeft_add_eq_or_of_lt (lt_of_lt_of_le hlow (Nat.pow_le_pow_right (by omega) hk)) n).symm
  rw [packW0, BitVec.or_assoc, BitVec.toNat_or]
  cases id with
  | std v =>
    have e : (idBits (.std v)).toNat = (v % 2 ^ 11) <<< 21 := by
      simp [idBits, Nat.shiftLeft_eq]
      omega
    rw [e, key _ 21 (by omega)]
  | ext v =>
    have e : (idBits (.ext v)).toNat = (v % 2 ^ 29) <<< 3 := by
      simp [idBits, Nat.shiftLeft_eq]
      omega
    rw [e, key _ 3 (by omega)]

theorem Frame.pack_stdId (f : Frame) (pad : Pad) (v : Nat) (h : f.id = .std v) : (f.pack pad).stdId = v % 2 ^ 11 := by
  have hlow := flags_low f.id.kind f.rtr
  simp only [Layout.stdId, Frame.pack_w0, BitVec.extractLsb'_toNat, Nat.shiftRight_eq_div_pow, packW0_toNat]
  rw [h] at hlow ⊢
  simp [idBits, Nat.shiftLeft_eq] at hlow ⊢
  omega

theorem Frame.pack_extId (f : Frame) (pad : Pad) (v : Nat) (h : f.id = .ext v) : (f.pack pad).extId = v % 2 ^ 29 := by
  have hlow := flags_low f.id.kind f.rtr
  simp only [Layout.extId, Frame.pack_w0, BitVec.extractLsb'_toNat, Nat.shiftRight_eq_div_pow, packW0_toNat]
  rw [h] at hlow ⊢
  simp [idBits, Nat.shiftLeft_eq] at hlow ⊢
  omega

/-! ### W1 -/

theorem Frame.pack_dlcCode (f : Frame) (pad : Pad) : (f.pack pad).dlcCode.toNat = f.dlc % 16 := by
  simp [Layout.dlcCode, packW1]

/-! ### The byte lanes -/

/-- Four bytes joined, as a number. -/
theorem join_toNat (a b c d : Byte) :
    (d ++ c ++ b ++ a : BitVec 32).toNat = a.toNat + 2 ^ 8 * b.toNat + 2 ^ 16 * c.toNat + 2 ^ 24 * d.toNat := by
  have := a.isLt
  have := b.isLt
  have := c.isLt
  rw [BitVec.toNat_append, BitVec.toNat_append, BitVec.toNat_append,
    ← Nat.shiftLeft_add_eq_or_of_lt (by omega), ← Nat.shiftLeft_add_eq_or_of_lt (by omega),
    ← Nat.shiftLeft_add_eq_or_of_lt (by omega)]
  simp only [Nat.shiftLeft_eq]
  omega

/-- Four bytes joined give each of them back. -/
theorem join_extract (a b c d : Byte) (w : Word32) (h : w = (d ++ c ++ b ++ a : BitVec 32)) :
    w.extractLsb' 0 8 = a ∧ w.extractLsb' 8 8 = b ∧ w.extractLsb' 16 8 = c ∧ w.extractLsb' 24 8 = d := by
  have e : w.toNat = a.toNat + 2 ^ 8 * b.toNat + 2 ^ 16 * c.toNat + 2 ^ 24 * d.toNat := by rw [h, join_toNat]
  have := a.isLt
  have := b.isLt
  have := c.isLt
  have := d.isLt
  refine ⟨?_, ?_, ?_, ?_⟩ <;>
    (apply BitVec.eq_of_toNat_eq
     rw [BitVec.extractLsb'_toNat, Nat.shiftRight_eq_div_pow, e]
     omega)

/-- The lanes of a packed frame are its lane bytes, in order. -/
theorem Frame.pack_lanes (f : Frame) (pad : Pad) :
    (f.pack pad).lanes = (List.finRange 8).map (laneByte f.payload pad) := by
  obtain ⟨h0, h1, h2, h3⟩ := join_extract _ _ _ _ (f.pack pad).w2 rfl
  obtain ⟨h4, h5, h6, h7⟩ := join_extract _ _ _ _ (f.pack pad).w3 rfl
  rw [Layout.lanes, h0, h1, h2, h3, h4, h5, h6, h7]
  rfl

theorem laneByte_of_lt {payload : List Byte} {i : Fin 8} (h : i.val < payload.length) (pad : Pad) :
    laneByte payload pad i = payload[i.val] := by
  simp [laneByte, List.getD, h]

theorem laneByte_of_ge {payload : List Byte} {i : Fin 8} (h : payload.length ≤ i.val) (pad : Pad) :
    laneByte payload pad i = pad[i] := by
  simp [laneByte, List.getD, h]

/-- The identifier of a packed frame in range reads back. -/
theorem Frame.pack_idAs (f : Frame) (pad : Pad) (h : f.idInRange = true) : (f.pack pad).idAs f.id.kind = f.id := by
  cases hid : f.id with
  | std v =>
    rw [f.idInRange_std v hid] at h
    simp [Identifier.kind, Layout.idAs, f.pack_stdId pad v hid]
    omega
  | ext v =>
    rw [f.idInRange_ext v hid] at h
    simp [Identifier.kind, Layout.idAs, f.pack_extId pad v hid]
    omega


end Sys2Proof
end

