-- ==== Sys2Proof/Laws/State.lean ====
section
/-! SUPPORT. One lemma per field of State and per update of it (Machine/Ops.lean), so that no proof unfolds a record update. -/

namespace Sys2Proof
namespace Machine

/-! ### State.writeF -/

@[simp] theorem State.writeF_fslots (s : State) (i : SlotIdx) (v : Frame) : (s.writeF i v).fslots = s.fslots.set i.val (some v) i.isLt := rfl
@[simp] theorem State.writeF_lslots (s : State) (i : SlotIdx) (v : Frame) : (s.writeF i v).lslots = s.lslots := rfl
@[simp] theorem State.writeF_pc (s : State) (i : SlotIdx) (v : Frame) : (s.writeF i v).pc = s.pc := rfl
@[simp] theorem State.writeF_status (s : State) (i : SlotIdx) (v : Frame) : (s.writeF i v).status = s.status := rfl
@[simp] theorem State.writeF_program (s : State) (i : SlotIdx) (v : Frame) : (s.writeF i v).program = s.program := rfl
@[simp] theorem State.writeF_dlcAbove8 (s : State) (i : SlotIdx) (v : Frame) : (s.writeF i v).dlcAbove8 = s.dlcAbove8 := rfl
@[simp] theorem State.writeF_draws (s : State) (i : SlotIdx) (v : Frame) : (s.writeF i v).draws = s.draws := rfl
@[simp] theorem State.writeF_calls (s : State) (i : SlotIdx) (v : Frame) : (s.writeF i v).calls = s.calls := rfl
@[simp] theorem State.writeF_encodeOut (s : State) (i : SlotIdx) (v : Frame) : (s.writeF i v).encodeOut = s.encodeOut := rfl
@[simp] theorem State.writeF_decodeOut (s : State) (i : SlotIdx) (v : Frame) : (s.writeF i v).decodeOut = s.decodeOut := rfl

/-! ### State.writeL -/

@[simp] theorem State.writeL_fslots (s : State) (i : SlotIdx) (v : Layout) : (s.writeL i v).fslots = s.fslots := rfl
@[simp] theorem State.writeL_lslots (s : State) (i : SlotIdx) (v : Layout) : (s.writeL i v).lslots = s.lslots.set i.val (some v) i.isLt := rfl
@[simp] theorem State.writeL_pc (s : State) (i : SlotIdx) (v : Layout) : (s.writeL i v).pc = s.pc := rfl
@[simp] theorem State.writeL_status (s : State) (i : SlotIdx) (v : Layout) : (s.writeL i v).status = s.status := rfl
@[simp] theorem State.writeL_program (s : State) (i : SlotIdx) (v : Layout) : (s.writeL i v).program = s.program := rfl
@[simp] theorem State.writeL_dlcAbove8 (s : State) (i : SlotIdx) (v : Layout) : (s.writeL i v).dlcAbove8 = s.dlcAbove8 := rfl
@[simp] theorem State.writeL_draws (s : State) (i : SlotIdx) (v : Layout) : (s.writeL i v).draws = s.draws := rfl
@[simp] theorem State.writeL_calls (s : State) (i : SlotIdx) (v : Layout) : (s.writeL i v).calls = s.calls := rfl
@[simp] theorem State.writeL_encodeOut (s : State) (i : SlotIdx) (v : Layout) : (s.writeL i v).encodeOut = s.encodeOut := rfl
@[simp] theorem State.writeL_decodeOut (s : State) (i : SlotIdx) (v : Layout) : (s.writeL i v).decodeOut = s.decodeOut := rfl

/-! ### State.advance -/

@[simp] theorem State.advance_fslots (s : State) : s.advance.fslots = s.fslots := rfl
@[simp] theorem State.advance_lslots (s : State) : s.advance.lslots = s.lslots := rfl
@[simp] theorem State.advance_pc (s : State) : s.advance.pc = s.pc + 1 := rfl
@[simp] theorem State.advance_status (s : State) : s.advance.status = s.status := rfl
@[simp] theorem State.advance_program (s : State) : s.advance.program = s.program := rfl
@[simp] theorem State.advance_dlcAbove8 (s : State) : s.advance.dlcAbove8 = s.dlcAbove8 := rfl
@[simp] theorem State.advance_draws (s : State) : s.advance.draws = s.draws := rfl
@[simp] theorem State.advance_calls (s : State) : s.advance.calls = s.calls := rfl
@[simp] theorem State.advance_encodeOut (s : State) : s.advance.encodeOut = s.encodeOut := rfl
@[simp] theorem State.advance_decodeOut (s : State) : s.advance.decodeOut = s.decodeOut := rfl

/-! ### State.drawn -/

@[simp] theorem State.drawn_fslots (s : State) : s.drawn.fslots = s.fslots := rfl
@[simp] theorem State.drawn_lslots (s : State) : s.drawn.lslots = s.lslots := rfl
@[simp] theorem State.drawn_pc (s : State) : s.drawn.pc = s.pc := rfl
@[simp] theorem State.drawn_status (s : State) : s.drawn.status = s.status := rfl
@[simp] theorem State.drawn_program (s : State) : s.drawn.program = s.program := rfl
@[simp] theorem State.drawn_dlcAbove8 (s : State) : s.drawn.dlcAbove8 = s.dlcAbove8 := rfl
@[simp] theorem State.drawn_draws (s : State) : s.drawn.draws = s.draws + 1 := rfl
@[simp] theorem State.drawn_calls (s : State) : s.drawn.calls = s.calls := rfl
@[simp] theorem State.drawn_encodeOut (s : State) : s.drawn.encodeOut = s.encodeOut := rfl
@[simp] theorem State.drawn_decodeOut (s : State) : s.drawn.decodeOut = s.decodeOut := rfl

/-! ### takeFault -/

@[simp] theorem takeFault_fslots (r : FaultReason) (s : State) : (takeFault r s).fslots = s.fslots := rfl
@[simp] theorem takeFault_lslots (r : FaultReason) (s : State) : (takeFault r s).lslots = s.lslots := rfl
@[simp] theorem takeFault_pc (r : FaultReason) (s : State) : (takeFault r s).pc = s.pc := rfl
@[simp] theorem takeFault_status (r : FaultReason) (s : State) : (takeFault r s).status = .faulted r s.pc := rfl
@[simp] theorem takeFault_program (r : FaultReason) (s : State) : (takeFault r s).program = s.program := rfl
@[simp] theorem takeFault_dlcAbove8 (r : FaultReason) (s : State) : (takeFault r s).dlcAbove8 = s.dlcAbove8 := rfl
@[simp] theorem takeFault_draws (r : FaultReason) (s : State) : (takeFault r s).draws = s.draws := rfl
@[simp] theorem takeFault_calls (r : FaultReason) (s : State) : (takeFault r s).calls = s.calls := rfl
@[simp] theorem takeFault_encodeOut (r : FaultReason) (s : State) : (takeFault r s).encodeOut = s.encodeOut := rfl
@[simp] theorem takeFault_decodeOut (r : FaultReason) (s : State) : (takeFault r s).decodeOut = s.decodeOut := rfl

/-! ### takeRefusal -/

@[simp] theorem takeRefusal_fslots (r : RefuseReason) (s : State) : (takeRefusal r s).fslots = s.fslots := rfl
@[simp] theorem takeRefusal_lslots (r : RefuseReason) (s : State) : (takeRefusal r s).lslots = s.lslots := rfl
@[simp] theorem takeRefusal_pc (r : RefuseReason) (s : State) : (takeRefusal r s).pc = s.pc := rfl
@[simp] theorem takeRefusal_status (r : RefuseReason) (s : State) : (takeRefusal r s).status = .refused r s.pc := rfl
@[simp] theorem takeRefusal_program (r : RefuseReason) (s : State) : (takeRefusal r s).program = s.program := rfl
@[simp] theorem takeRefusal_dlcAbove8 (r : RefuseReason) (s : State) : (takeRefusal r s).dlcAbove8 = s.dlcAbove8 := rfl
@[simp] theorem takeRefusal_draws (r : RefuseReason) (s : State) : (takeRefusal r s).draws = s.draws := rfl
@[simp] theorem takeRefusal_calls (r : RefuseReason) (s : State) : (takeRefusal r s).calls = s.calls := rfl
@[simp] theorem takeRefusal_encodeOut (r : RefuseReason) (s : State) : (takeRefusal r s).encodeOut = s.encodeOut := rfl
@[simp] theorem takeRefusal_decodeOut (r : RefuseReason) (s : State) : (takeRefusal r s).decodeOut = s.decodeOut := rfl

/-! ### evalEncodePort -/

@[simp] theorem evalEncodePort_fslots (f : Frame) (pad : Pad) (s : State) : (evalEncodePort f pad s).fslots = s.fslots := rfl
@[simp] theorem evalEncodePort_lslots (f : Frame) (pad : Pad) (s : State) : (evalEncodePort f pad s).lslots = s.lslots := rfl
@[simp] theorem evalEncodePort_pc (f : Frame) (pad : Pad) (s : State) : (evalEncodePort f pad s).pc = s.pc := rfl
@[simp] theorem evalEncodePort_status (f : Frame) (pad : Pad) (s : State) : (evalEncodePort f pad s).status = s.status := rfl
@[simp] theorem evalEncodePort_program (f : Frame) (pad : Pad) (s : State) : (evalEncodePort f pad s).program = s.program := rfl
@[simp] theorem evalEncodePort_dlcAbove8 (f : Frame) (pad : Pad) (s : State) : (evalEncodePort f pad s).dlcAbove8 = s.dlcAbove8 := rfl
@[simp] theorem evalEncodePort_draws (f : Frame) (pad : Pad) (s : State) : (evalEncodePort f pad s).draws = s.draws := rfl
@[simp] theorem evalEncodePort_calls (f : Frame) (pad : Pad) (s : State) : (evalEncodePort f pad s).calls = s.calls := rfl
@[simp] theorem evalEncodePort_encodeOut (f : Frame) (pad : Pad) (s : State) : (evalEncodePort f pad s).encodeOut = some (encodeFrame f pad) := rfl
@[simp] theorem evalEncodePort_decodeOut (f : Frame) (pad : Pad) (s : State) : (evalEncodePort f pad s).decodeOut = s.decodeOut := rfl

/-! ### evalDecodePort -/

@[simp] theorem evalDecodePort_fslots (k : Kind) (b : Bool) (l : Layout) (s : State) : (evalDecodePort k b l s).fslots = s.fslots := rfl
@[simp] theorem evalDecodePort_lslots (k : Kind) (b : Bool) (l : Layout) (s : State) : (evalDecodePort k b l s).lslots = s.lslots := rfl
@[simp] theorem evalDecodePort_pc (k : Kind) (b : Bool) (l : Layout) (s : State) : (evalDecodePort k b l s).pc = s.pc := rfl
@[simp] theorem evalDecodePort_status (k : Kind) (b : Bool) (l : Layout) (s : State) : (evalDecodePort k b l s).status = s.status := rfl
@[simp] theorem evalDecodePort_program (k : Kind) (b : Bool) (l : Layout) (s : State) : (evalDecodePort k b l s).program = s.program := rfl
@[simp] theorem evalDecodePort_dlcAbove8 (k : Kind) (b : Bool) (l : Layout) (s : State) : (evalDecodePort k b l s).dlcAbove8 = s.dlcAbove8 := rfl
@[simp] theorem evalDecodePort_draws (k : Kind) (b : Bool) (l : Layout) (s : State) : (evalDecodePort k b l s).draws = s.draws := rfl
@[simp] theorem evalDecodePort_calls (k : Kind) (b : Bool) (l : Layout) (s : State) : (evalDecodePort k b l s).calls = s.calls := rfl
@[simp] theorem evalDecodePort_encodeOut (k : Kind) (b : Bool) (l : Layout) (s : State) : (evalDecodePort k b l s).encodeOut = s.encodeOut := rfl
@[simp] theorem evalDecodePort_decodeOut (k : Kind) (b : Bool) (l : Layout) (s : State) : (evalDecodePort k b l s).decodeOut = some (decodeAs k b s.dlcAbove8 l) := rfl

end Machine
end Sys2Proof
end

