-- ==== Sys2Proof/Laws/Ops.lean ====
section
/-! SUPPORT. What the slot operations and the two harness commands can do (spec/20_memory.md R40, spec/60_exceptions.md R97). -/

namespace Sys2Proof
namespace Machine

/-! ### Slots: a read gives what was written there and nothing else moves -/

@[simp] theorem readF_writeF_same (s : State) (i : SlotIdx) (v : Frame) :
    (s.writeF i v).readF i = some v := by
  simp [State.readF]

theorem readF_writeF_of_ne (s : State) {i j : SlotIdx} (v : Frame) (h : i ≠ j) :
    (s.writeF i v).readF j = s.readF j := by
  have : i.val ≠ j.val := fun e => h (Fin.ext e)
  simp [State.readF, this]

@[simp] theorem readL_writeL_same (s : State) (i : SlotIdx) (v : Layout) :
    (s.writeL i v).readL i = some v := by
  simp [State.readL]

theorem readL_writeL_of_ne (s : State) {i j : SlotIdx} (v : Layout) (h : i ≠ j) :
    (s.writeL i v).readL j = s.readL j := by
  have : i.val ≠ j.val := fun e => h (Fin.ext e)
  simp [State.readL, this]

/-- Reading a frame slot looks at the frame slots alone. -/
theorem readF_congr {s t : State} (h : t.fslots = s.fslots) (i : SlotIdx) : t.readF i = s.readF i := by
  simp [State.readF, h]

/-- Reading a layout slot looks at the layout slots alone. -/
theorem readL_congr {s t : State} (h : t.lslots = s.lslots) (i : SlotIdx) : t.readL i = s.readL i := by
  simp [State.readL, h]

@[simp] theorem readL_writeF (s : State) (i j : SlotIdx) (v : Frame) : (s.writeF i v).readL j = s.readL j := rfl

@[simp] theorem readF_writeL (s : State) (i j : SlotIdx) (v : Layout) : (s.writeL i v).readF j = s.readF j := rfl

/-! ### ENC and DEC: every way they can end -/

/-- Everything ENC can do with a pad. -/
theorem encWith_cases (pad : Pad) (d src : SlotIdx) (s : State) :
    (s.readF src = none ∧ encWith pad d src s = takeFault (.unwrittenSlot .f src) s) ∨
    (∃ f r, s.readF src = some f ∧ encodeFrame f pad = .fault r ∧ encWith pad d src s = takeFault r s.drawn) ∨
    (∃ f l, s.readF src = some f ∧ encodeFrame f pad = .ok l ∧
      encWith pad d src s = (s.drawn.writeL d l).advance) := by
  unfold encWith
  cases hf : s.readF src with
  | none => exact .inl ⟨rfl, rfl⟩
  | some f =>
    cases he : encodeFrame f pad with
    | fault r => exact .inr (.inl ⟨f, r, rfl, he, by simp [he]⟩)
    | ok l => exact .inr (.inr ⟨f, l, rfl, he, by simp [he]⟩)

/-- Everything DEC can do. -/
theorem decSlot_cases (d src : SlotIdx) (s : State) :
    (s.readL src = none ∧ decSlot d src s = takeFault (.unwrittenSlot .l src) s) ∨
    (∃ l r, s.readL src = some l ∧ decodeLayout s.dlcAbove8 l = .fault r ∧ decSlot d src s = takeFault r s) ∨
    (∃ l f, s.readL src = some l ∧ decodeLayout s.dlcAbove8 l = .ok f ∧
      decSlot d src s = (s.writeF d f).advance) := by
  unfold decSlot
  cases hl : s.readL src with
  | none => exact .inl ⟨rfl, rfl⟩
  | some l =>
    cases hd : decodeLayout s.dlcAbove8 l with
    | fault r => exact .inr (.inl ⟨l, r, rfl, hd, by simp [hd]⟩)
    | ok f => exact .inr (.inr ⟨l, f, rfl, hd, by simp [hd]⟩)

end Machine
end Sys2Proof
end

