-- ==== Sys2Proof/Laws/PerInstr.lean ====
section
/-! SUPPORT. Statements for every instruction, one lemma per constructor: the first word of a well-formed instruction lies in
the instruction's own row of spec/opcode_table.json (spec/30_encoding.md R56, R60, R61). -/

namespace Sys2Proof
namespace Laws
namespace TableRow

/-- The word has the row's fixed bits. -/
def Statement (i : Instr) : Prop :=
  i.wellFormed = true → i.tableWord &&& i.row.mask = i.row.pattern

theorem enc (d s : SlotIdx) : Statement (.enc d s) := by
  intro _; revert d s; decide

theorem dec (d s : SlotIdx) : Statement (.dec d s) := by
  intro _; revert d s; decide

/-- What the fixed bits of a W0 say, moved between words and numbers. -/
theorem word_row {w m p : Word32} (h : w &&& m = p) : w.toNat &&& m.toNat = p.toNat := by
  rw [← BitVec.toNat_and, h]

theorem shifted_std (a : BitVec 11) (c : Word32) (hc : c &&& 0x001FFFFF#32 = c) :
    (a.setWidth 32 <<< 21 ||| c) &&& 0x001FFFFF#32 = c := by
  have h : (a.setWidth 32 <<< 21) &&& 0x001FFFFF#32 = 0#32 := by
    ext i hi
    simp only [BitVec.getElem_and, BitVec.getElem_shiftLeft, BitVec.getElem_zero]
    by_cases h : i < 21
    · simp [h]
    · have : (0x001FFFFF#32).getLsbD i = false := by
        interval_cases i <;> first | omega | rfl
      simp [BitVec.getLsbD_eq_getElem hi ▸ this]
  rw [BitVec.and_or_distrib_right, h, hc, BitVec.zero_or]

theorem shifted_ext (a : BitVec 29) (c : Word32) (hc : c &&& 0x7#32 = c) :
    (a.setWidth 32 <<< 3 ||| c) &&& 0x7#32 = c := by
  have h : (a.setWidth 32 <<< 3) &&& 0x7#32 = 0#32 := by
    ext i hi
    simp only [BitVec.getElem_and, BitVec.getElem_shiftLeft, BitVec.getElem_zero]
    by_cases h : i < 3
    · simp [h]
    · have : (0x7#32).getLsbD i = false := by
        interval_cases i <;> first | omega | rfl
      simp [BitVec.getLsbD_eq_getElem hi ▸ this]
  rw [BitVec.and_or_distrib_right, h, hc, BitVec.zero_or]

theorem encodeStdData (v dlc : Nat) (payload : List Byte) (pad : Pad) :
    Statement (.encodeStdData v dlc payload pad) := fun _ =>
  word_row (m := 0x001FFFFF#32) (p := 0#32) (by
    rw [packW0, BitVec.or_assoc]
    exact shifted_std _ (ideBits .standard ||| rtrBits false) (by decide))

theorem encodeStdRemote (v dlc : Nat) (payload : List Byte) (pad : Pad) :
    Statement (.encodeStdRemote v dlc payload pad) := fun _ =>
  word_row (m := 0x001FFFFF#32) (p := 2#32) (by
    rw [packW0, BitVec.or_assoc]
    exact shifted_std _ (ideBits .standard ||| rtrBits true) (by decide))

theorem encodeExtData (v dlc : Nat) (payload : List Byte) (pad : Pad) :
    Statement (.encodeExtData v dlc payload pad) := fun _ =>
  word_row (m := 7#32) (p := 4#32) (by
    rw [packW0, BitVec.or_assoc]
    exact shifted_ext _ (ideBits .extended ||| rtrBits false) (by decide))

theorem encodeExtRemote (v dlc : Nat) (payload : List Byte) (pad : Pad) :
    Statement (.encodeExtRemote v dlc payload pad) := fun _ =>
  word_row (m := 7#32) (p := 6#32) (by
    rw [packW0, BitVec.or_assoc]
    exact shifted_ext _ (ideBits .extended ||| rtrBits true) (by decide))

/-- The two bits IDE and RTR under the mask 6. -/
theorem ide_rtr_mask (w : Word32) :
    w &&& 6#32 = (if w.getLsbD 2 then 4#32 else 0#32) ||| (if w.getLsbD 1 then 2#32 else 0#32) := by
  ext i hi
  cases h2 : w.getLsbD 2 <;> cases h1 : w.getLsbD 1 <;>
    (interval_cases i <;> simp_all [BitVec.getLsbD_eq_getElem])

theorem format_mask (l : Layout) :
    l.w0 &&& 6#32 = match l.format with
      | .stdData => 0#32 | .stdRemote => 2#32 | .extData => 4#32 | .extRemote => 6#32 := by
  rw [ide_rtr_mask]
  unfold Layout.format Layout.kind Layout.ide Layout.rtr
  cases l.w0.getLsbD 2 <;> cases l.w0.getLsbD 1 <;> rfl

theorem decodeStdData (l : Layout) : Statement (.decodeStdData l) := fun h =>
  word_row (m := 6#32) (p := 0#32) (by rw [format_mask, of_decide_eq_true h])

theorem decodeStdRemote (l : Layout) : Statement (.decodeStdRemote l) := fun h =>
  word_row (m := 6#32) (p := 2#32) (by rw [format_mask, of_decide_eq_true h])

theorem decodeExtData (l : Layout) : Statement (.decodeExtData l) := fun h =>
  word_row (m := 6#32) (p := 4#32) (by rw [format_mask, of_decide_eq_true h])

theorem decodeExtRemote (l : Layout) : Statement (.decodeExtRemote l) := fun h =>
  word_row (m := 6#32) (p := 6#32) (by rw [format_mask, of_decide_eq_true h])

end TableRow
end Laws
end Sys2Proof
end

