-- ==== Sys2Proof/Laws/Step.lean ====
section
/-! SUPPORT. What fetch hands over and everything a step can do (spec/10_state.md R30). -/

namespace Sys2Proof
namespace Machine

theorem fetch_of_call {s : State} {c : Call} {rest : List Call} (h : s.calls = c :: rest) :
    fetch s = some (.call c, { s with calls := rest }) := by
  simp [fetch, h]

theorem fetch_of_command {s : State} {w : Word16} (hc : s.calls = []) (hs : s.status = .running)
    (hw : s.program[s.pc]? = some w) : fetch s = some (.command w, s) := by
  simp [fetch, hc, hs, hw]

theorem fetch_of_stopped {s : State} (hc : s.calls = []) (hs : s.status ≠ .running) : fetch s = none := by
  cases h : s.status <;> simp_all [fetch]

theorem fetch_of_end {s : State} (hc : s.calls = []) (hs : s.status = .running) (hp : s.program.length ≤ s.pc) :
    fetch s = none := by
  simp [fetch, hc, hs, hp]

/-- Every instruction answers a next state. -/
theorem exec_answers (i : Instr) (s : State) : ∃ t, exec i s = .next t := by
  cases i <;> exact ⟨_, rfl⟩

/-- A command decodes to ENC or to DEC, or is reserved. -/
theorem decodeCommand_cases (w : Word16) :
    decodeCommand w = .ok (.enc (cmdD w) (cmdS w)) ∨ decodeCommand w = .ok (.dec (cmdD w) (cmdS w)) ∨
      decodeCommand w = .error (.reservedCommand w) := by
  unfold decodeCommand
  split
  · split
    · exact .inl rfl
    · split
      · exact .inr (.inl rfl)
      · exact .inr (.inr rfl)
  · exact .inr (.inr rfl)

/-- Serving a call changes a port's output and nothing else. -/
theorem exec_decodeCall_cases (c : Call) (s : State) :
    (∃ f pad, c = .encode f pad ∧ exec (decodeCall c) s = .next (evalEncodePort f pad s)) ∨
    (∃ l, c = .decode l ∧ exec (decodeCall c) s = .next (evalDecodePort l.kind l.rtr l s)) := by
  cases c with
  | encode f pad =>
    refine .inl ⟨f, pad, rfl, ?_⟩
    obtain ⟨id, rtr, dlc, payload⟩ := f
    cases id <;> cases rtr <;> rfl
  | decode l =>
    refine .inr ⟨l, rfl, ?_⟩
    simp only [decodeCall, decodeRow, Layout.format]
    cases l.kind <;> cases l.rtr <;> rfl

@[simp] theorem runFor_zero (s : State) : runFor 0 s = .next s := rfl

/-- One step and then the rest of the run. -/
theorem runFor_succ {s t : State} (h : step s = .next t) (n : Nat) : runFor (n + 1) s = runFor n t := by
  simp only [runFor, Host.Core.run, show core.step s = .next t from h]
  rfl

/-- Everything a step that answers a next state can have done. -/
theorem step_cases {s t : State} (h : step s = .next t) :
    (∃ c rest, s.calls = c :: rest ∧ exec (decodeCall c) { s with calls := rest } = .next t) ∨
    (s.calls = [] ∧ s.status = .running ∧ ∃ w, s.program[s.pc]? = some w ∧
      ((decodeCommand w = .ok (.enc (cmdD w) (cmdS w)) ∧
          t = encWith (Config.padDraw s.draws) (cmdD w) (cmdS w) s) ∨
        (decodeCommand w = .ok (.dec (cmdD w) (cmdS w)) ∧ t = decSlot (cmdD w) (cmdS w) s) ∨
        (decodeCommand w = .error (.reservedCommand w) ∧ t = takeRefusal (.reservedCommand w) s))) ∨
    (s.calls = [] ∧ s.status = .running ∧ s.pc = s.program.length ∧ t = { s with status := .done }) ∨
    (s.calls = [] ∧ s.status ≠ .running ∧ t = s) := by
  cases hc : s.calls with
  | cons c rest =>
    refine .inl ⟨c, rest, rfl, ?_⟩
    simpa [step, fetch_of_call hc, decode] using h
  | nil =>
    by_cases hs : s.status = .running
    · cases hw : s.program[s.pc]? with
      | some w =>
        refine .inr (.inl ⟨rfl, hs, w, rfl, ?_⟩)
        simp only [step, fetch_of_command hc hs hw, decode] at h
        rcases decodeCommand_cases w with hd | hd | hd <;> rw [hd] at h
        · cases h; exact .inl ⟨hd, rfl⟩
        · cases h; exact .inr (.inl ⟨hd, rfl⟩)
        · cases h; exact .inr (.inr ⟨hd, rfl⟩)
      | none =>
        have hp : s.program.length ≤ s.pc := by simpa using hw
        simp only [step, fetch_of_end hc hs hp, idle, hs] at h
        split at h
        · rename_i he
          cases h; exact .inr (.inr (.inl ⟨rfl, hs, he, by rw [hc]⟩))
        · cases h
    · refine .inr (.inr (.inr ⟨rfl, hs, ?_⟩))
      simp only [step, fetch_of_stopped hc hs, idle] at h
      cases hst : s.status <;> simp_all

end Machine
end Sys2Proof
end

