-- ==== Sys2Proof/Tests/Slice0.lean ====
section
/-! SUPPORT. Tests: expected values from spec/95_test_vectors.md (its row in each comment) and the rules' own examples; and for every
statement with hypotheses a named witness that meets them. -/

namespace Sys2Proof
namespace Tests

open Machine

/-! ### Helpers -/

/-- The state an outcome goes on in. -/
def nextOf : Host.Outcome State Fault Refusal → Option State
  | .next s => some s
  | .fault _ => none
  | .refused _ => none

/-- A start state with one frame slot and one layout slot written. -/
def start (program : List Word16) (cfg : DlcAbove8) (i : SlotIdx) (f : Option Frame) (j : SlotIdx) (l : Option Layout) : State :=
  launch program cfg ((Vector.replicate 16 none).set i.val f i.isLt) ((Vector.replicate 16 none).set j.val l j.isLt)

/-- Eight pad bytes p0 to p7. -/
def somePad : Pad := #v[0xF0#8, 0xF1#8, 0xF2#8, 0xF3#8, 0xF4#8, 0xF5#8, 0xF6#8, 0xF7#8]

def zeroPad : Pad := Vector.replicate 8 0#8

/-- The frame of DOC0's scenario (S2). -/
def frame100 : Frame := dataFrame (.std 0x100) [0xAA#8, 0xBB#8]

/-- A full extended frame at the top of its ranges. -/
def frameTop : Frame := dataFrame (.ext 0x1FFFFFFF) [1#8, 2#8, 3#8, 4#8, 5#8, 6#8, 7#8, 8#8]

def onesLayout : Layout := ⟨0xFFFFFFFF#32, 0x0000000F#32, 0x12345678#32, 0x9ABCDEF0#32⟩

/-! ### Well-formedness: each check refuses an ill-formed term -/

theorem test_wf_std_id_too_wide : (⟨.std 0x800, false, 0, []⟩ : Frame).idInRange = false := by decide
theorem test_wf_ext_id_does_not_wrap : (⟨.ext (2 ^ 32 + 5), false, 0, []⟩ : Frame).idInRange = false := by decide
theorem test_wf_dlc_too_large : (⟨.std 1, false, 9, List.replicate 9 0#8⟩ : Frame).dlcInRange = false := by decide
theorem test_wf_payload_too_short : (⟨.std 1, false, 2, [1#8]⟩ : Frame).payloadLength = false := by decide
theorem test_wf_remote_with_payload : (⟨.std 1, true, 2, [1#8, 2#8]⟩ : Frame).payloadLength = false := by decide
theorem test_wf_frame_at_bounds : frameTop.wf = true ∧ (remoteFrame (.std 0x7FF) 8).wf = true := by decide
theorem test_wf_decode_std_data_of_other_format : (Instr.decodeStdData ⟨0x2#32, 0, 0, 0⟩).wellFormed = false := by decide
theorem test_wf_decode_std_remote_of_other_format : (Instr.decodeStdRemote ⟨0x6#32, 0, 0, 0⟩).wellFormed = false := by decide
theorem test_wf_decode_ext_data_of_other_format : (Instr.decodeExtData ⟨0x0#32, 0, 0, 0⟩).wellFormed = false := by decide
theorem test_wf_decode_ext_remote_of_other_format : (Instr.decodeExtRemote ⟨0x4#32, 0, 0, 0⟩).wellFormed = false := by decide

/-! ### Decoding: words written out from the spec's encodings, bit by bit -/

-- 0001 dddd ssss 0000 with d = 1, s = 0 (R72's example) and the last slots (95 section 2.5)
theorem test_decode_enc : decodeTableWord 16 0b0001000100000000 = some (.enc 1 0) := by decide
theorem test_decode_enc_last_slots : decodeTableWord 16 0x1FF0 = some (.enc 15 15) := by decide
-- 0010 dddd ssss 0000 with d = 2, s = 1 (R82's example)
theorem test_decode_dec : decodeTableWord 16 0b0010001000010000 = some (.dec 2 1) := by decide
-- 95 section 2.5: reserved words
theorem test_decode_reserved_words :
    decodeCommand 0x0000#16 = .error (.reservedCommand 0x0000#16) ∧
    decodeCommand 0x3000#16 = .error (.reservedCommand 0x3000#16) ∧
    decodeCommand 0xF000#16 = .error (.reservedCommand 0xF000#16) ∧
    decodeCommand 0x1001#16 = .error (.reservedCommand 0x1001#16) ∧
    decodeCommand 0x200F#16 = .error (.reservedCommand 0x200F#16) := ⟨rfl, rfl, rfl, rfl, rfl⟩
-- iiiiiiiiiii000000000000000000000 with i = 0x7FF (E4)
theorem test_decode_encode_std_data :
    decodeTableWord 32 0b11111111111000000000000000000000 = some (.encodeStdData 0x7FF 0 [] zeroPad) := by decide
-- iiiiiiiiiii000000000000000000010 with i = 0x123 (E7)
theorem test_decode_encode_std_remote :
    decodeTableWord 32 0b00100100011000000000000000000010 = some (.encodeStdRemote 0x123 0 [] zeroPad) := by decide
-- iiiiiiiiiiiiiiiiiiiiiiiiiiiii100 with i = 0x12345678 (E10)
theorem test_decode_encode_ext_data :
    decodeTableWord 32 0b10010001101000101011001111000100 = some (.encodeExtData 0x12345678 0 [] zeroPad) := by decide
-- iiiiiiiiiiiiiiiiiiiiiiiiiiiii110 with i = 0x800 (E17)
theorem test_decode_encode_ext_remote :
    decodeTableWord 32 0b00000000000000000100000000000110 = some (.encodeExtRemote 0x800 0 [] zeroPad) := by decide
-- iiiiiiiiiiixxxxxxxxxxxxxxxxxx00x, all ignored bits 1 (D3)
theorem test_decode_decode_std_data :
    decodeTableWord 32 0b11111111111111111111111111111001 = some (.decodeStdData ⟨0xFFFFFFF9#32, 0, 0, 0⟩) := by decide
-- iiiiiiiiiiixxxxxxxxxxxxxxxxxx01x with bit 0 set (D7)
theorem test_decode_decode_std_remote :
    decodeTableWord 32 0b00000000000000000000000000000011 = some (.decodeStdRemote ⟨0x3#32, 0, 0, 0⟩) := by decide
-- iiiiiiiiiiiiiiiiiiiiiiiiiiiii10x with bit 0 set (D10)
theorem test_decode_decode_ext_data :
    decodeTableWord 32 0b00000000000000000000000000000101 = some (.decodeExtData ⟨0x5#32, 0, 0, 0⟩) := by decide
-- iiiiiiiiiiiiiiiiiiiiiiiiiiiii11x with bit 0 set (D12)
theorem test_decode_decode_ext_remote :
    decodeTableWord 32 0b11111111111111111111111111111111 = some (.decodeExtRemote ⟨0xFFFFFFFF#32, 0, 0, 0⟩) := by decide
-- At the DECODE port itself every layout is decoded, a canonical one too (R59, D5)
theorem test_decode_port_takes_canonical_layout :
    decodeCall (.decode ⟨0x40000000#32, 0, 0, 0⟩) = .decodeStdData ⟨0x40000000#32, 0, 0, 0⟩ := by decide

/-! ### ENC and DEC -/

-- R72's example and P1, for the words that hold no pad
theorem test_enc_scenario :
    (nextOf (exec (.enc 1 0) (start [] .clamp8 0 (some frame100) 2 none))).bind (fun t => (t.readL 1).map fun l => (l.w0, l.w1, t.pc)) =
      some (0x20000000#32, 0x00000002#32, 1) := by decide
-- P3: the fault is recorded at the pc and L1 stays None
theorem test_enc_ill_formed_frame :
    (nextOf (exec (.enc 1 0) (start [] .clamp8 0 (some ⟨.std 0x800, false, 0, []⟩) 2 none))).map (fun t => (t.status, t.pc, t.readL 1)) =
      some (.faulted (.frameInvariantViolation .idOutOfRange ⟨.std 0x800, false, 0, []⟩) 0, 0, none) := by decide
-- P4: the clamped code
theorem test_dec_clamps :
    (nextOf (exec (.dec 3 2) (start [] .clamp8 0 none 2 (some ⟨0x20000000#32, 0xC#32, 0x44332211#32, 0x88776655#32⟩)))).bind (·.readF 3) =
      some (dataFrame (.std 0x100) [0x11#8, 0x22#8, 0x33#8, 0x44#8, 0x55#8, 0x66#8, 0x77#8, 0x88#8]) := by decide
-- P2 under Fault
theorem test_dec_faults :
    (nextOf (exec (.dec 0 0) (start [] .fault 0 none 0 (some onesLayout)))).map (fun t => (t.status, t.pc, t.readF 0)) =
      some (.faulted (.dlcAboveEight 15#4) 0, 0, none) := by decide

/-! ### The ENCODE port -/

/-- What the ENCODE port answers to an instruction in the reset state. -/
def encoded (i : Instr) : Option (PortOut Layout) := (nextOf (exec i State.reset)).bind (·.encodeOut)

/-- What the DECODE port answers to an instruction under a setting of DLC_ABOVE_8. -/
def decoded (cfg : DlcAbove8) (i : Instr) : Option (PortOut Frame) :=
  (nextOf (exec i { State.reset with dlcAbove8 := cfg })).bind (·.decodeOut)

-- E18
theorem test_encode_std_data_pads :
    encoded (.encodeStdData 0x001 1 [0x11#8] somePad) =
      some (.ok ⟨0x00200000#32, 0x00000001#32, 0xF3F2F111#32, 0xF7F6F5F4#32⟩) := by decide
-- X7
theorem test_encode_std_data_payload_too_long :
    encoded (.encodeStdData 0x1 2 [1#8, 2#8, 3#8] zeroPad) =
      some (.fault (.frameInvariantViolation .payloadLengthMismatch ⟨.std 0x1, false, 2, [1#8, 2#8, 3#8]⟩)) := by decide
-- E19
theorem test_encode_std_remote_pads :
    encoded (.encodeStdRemote 0x123 4 [] somePad) =
      some (.ok ⟨0x24600002#32, 0x00000004#32, 0xF3F2F1F0#32, 0xF7F6F5F4#32⟩) := by decide
-- X9
theorem test_encode_std_remote_with_payload :
    encoded (.encodeStdRemote 0x1 2 [1#8, 2#8] zeroPad) =
      some (.fault (.frameInvariantViolation .payloadLengthMismatch ⟨.std 0x1, true, 2, [1#8, 2#8]⟩)) := by decide
-- E13
theorem test_encode_ext_data :
    encoded (.encodeExtData 0x0ABCDEF 4 [0xDE#8, 0xAD#8, 0xBE#8, 0xEF#8] zeroPad) =
      some (.ok ⟨0x055E6F7C#32, 0x00000004#32, 0xEFBEADDE#32, 0#32⟩) := by decide
-- X6: the dlc check precedes the payload check
theorem test_encode_ext_data_dlc_first :
    encoded (.encodeExtData 0x1 9 (List.replicate 8 0#8) zeroPad) =
      some (.fault (.frameInvariantViolation .dlcOutOfRange ⟨.ext 0x1, false, 9, List.replicate 8 0#8⟩)) := by decide
-- E16
theorem test_encode_ext_remote :
    encoded (.encodeExtRemote 0x1FFFFFFF 8 [] zeroPad) =
      some (.ok ⟨0xFFFFFFFE#32, 0x00000008#32, 0#32, 0#32⟩) := by decide
-- X3, as a remote frame
theorem test_encode_ext_remote_id_too_wide :
    encoded (.encodeExtRemote 0x20000000 0 [] zeroPad) =
      some (.fault (.frameInvariantViolation .idOutOfRange ⟨.ext 0x20000000, true, 0, []⟩)) := by decide

/-! ### The DECODE port -/

-- D1
theorem test_decode_port_std_data :
    decoded .clamp8 (.decodeStdData ⟨0x20000000#32, 2#32, 0x1234BBAA#32, 0xFFFFFFFF#32⟩) = some (.ok frame100) := by decide
-- D11 under Fault
theorem test_decode_port_std_data_faults :
    decoded .fault (.decodeStdData ⟨0x20000000#32, 0xC#32, 0x44332211#32, 0x88776655#32⟩) =
      some (.fault (.dlcAboveEight 12#4)) := by decide
-- D6
theorem test_decode_port_std_remote :
    decoded .fault (.decodeStdRemote ⟨0x24600002#32, 4#32, 0xFFFFFFFF#32, 0xFFFFFFFF#32⟩) =
      some (.ok (remoteFrame (.std 0x123) 4)) := by decide
-- D7
theorem test_decode_port_std_remote_clamps :
    decoded .clamp8 (.decodeStdRemote ⟨3#32, 9#32, 0#32, 0#32⟩) = some (.ok (remoteFrame (.std 0) 8)) := by decide
-- D8
theorem test_decode_port_ext_data :
    decoded .fault (.decodeExtData ⟨0x91A2B3C4#32, 8#32, 0x04030201#32, 0x08070605#32⟩) =
      some (.ok (dataFrame (.ext 0x12345678) [1#8, 2#8, 3#8, 4#8, 5#8, 6#8, 7#8, 8#8])) := by decide
-- D10
theorem test_decode_port_ext_data_ignored_bits :
    decoded .clamp8 (.decodeExtData ⟨5#32, 0x103#32, 0xCAFEBABE#32, 0#32⟩) =
      some (.ok (dataFrame (.ext 0) [0xBE#8, 0xBA#8, 0xFE#8])) := by decide
-- D12
theorem test_decode_port_ext_remote :
    decoded .clamp8 (.decodeExtRemote onesLayout) = some (.ok (remoteFrame (.ext 0x1FFFFFFF) 8)) := by decide
-- D13 under Fault
theorem test_decode_port_ext_remote_faults :
    decoded .fault (.decodeExtRemote ⟨0xFFFFFFFF#32, 0xFFFFFFFF#32, 0xFFFFFFFF#32, 0xFFFFFFFF#32⟩) =
      some (.fault (.dlcAboveEight 15#4)) := by decide

/-! ### The step and the canonical form -/

-- P6b: a reserved command is refused
theorem test_step_refuses_reserved :
    (nextOf (step (start [0x3000#16, 0x1000#16] .clamp8 0 (some frame100) 0 none))).map (fun t => (t.status, t.pc, t.readL 0)) =
      some (.refused (.reservedCommand 0x3000#16) 0, 0, none) := by decide
-- P6a: reading an unwritten slot
theorem test_step_unwritten_slot :
    (nextOf (step (start [0x2050#16] .clamp8 0 none 0 none))).map (fun t => (t.status, t.pc)) =
      some (.faulted (.unwrittenSlot .l 5) 0, 0) := by decide
-- R30: an empty program is Done at once
theorem test_step_ends_empty_run : (nextOf (step State.reset)).map (·.status) = some .done := by decide
-- W1 and W2
theorem test_canonical_form :
    (Layout.mk 0xFFFFFFF9#32 0xABCD0000#32 0x11223344#32 0x55667788#32).canon = ⟨0xFFE00000#32, 0#32, 0x11223344#32, 0x55667788#32⟩ ∧
    (Layout.mk 5#32 0x103#32 0xCAFEBABE#32 0#32).canon = ⟨4#32, 3#32, 0xCAFEBABE#32, 0#32⟩ := by decide
-- a placed table word runs as the first instruction after reset: a call, and a command (its slot is unwritten)
theorem test_placed_words_run :
    (nextOf (step (State.reset.withFetchWord 32 0xFFE00000))).bind (·.encodeOut) = some (.ok ⟨0xFFE00000#32, 0, 0, 0⟩) ∧
    (nextOf (step (State.reset.withFetchWord 16 0x1000))).map (·.status) = some (.faulted (.unwrittenSlot .f 0) 0) := by decide

/-! ### Assembly (R62, R63) -/

theorem test_assemble_round_trip : asmLineWords "RT F1, F0, L0 ; round trip".toList = some [0x1000#16, 0x2100#16] := by decide
theorem test_assemble_slot_too_large : asmLineWords "ENC L16, F0".toList = none := by decide
theorem test_assemble_program :
    assembleText ["; start".toList, "DEC F2, L1".toList, "ENC L15, F15".toList] = some [0x2210#16, 0x1FF0#16] := by decide
theorem test_frame_literal : asmFrame (asmTokens "std(0x100) data [0xAA,0xBB]".toList []) = some frame100 := by decide
theorem test_remote_literal : asmFrame (asmTokens "ext(0x1234) remote dlc=4".toList []) = some (remoteFrame (.ext 0x1234) 4) := by decide
theorem test_record_literal :
    asmFrame (asmTokens ([Char.ofNat 123] ++ "id=Std(0x800), rtr=false, dlc=0, payload=[]".toList ++ [Char.ofNat 125]) []) =
      some ⟨.std 0x800, false, 0, []⟩ := by decide
theorem test_layout_literal :
    asmLayout (asmTokens ([Char.ofNat 123] ++ "W0=0x20000000, W1=0x2, W2=0xBBAA, W3=0x0".toList ++ [Char.ofNat 125]) []) =
      some ⟨0x20000000#32, 2#32, 0xBBAA#32, 0#32⟩ := by decide

/-! ### Witnesses: the hypotheses of the statements can be met, each clause of each -/

/-- A running harness with ENC L1, F0; DEC F2, L1 and a written F0. -/
def running : State := start [0x1100#16, 0x2210#16] .clamp8 0 (some frame100) 5 none

/-- A Faulted harness. -/
def stopped : State := takeFault (.unwrittenSlot .f 0) (start [0x1100#16] .clamp8 1 none 1 none)

/-- A reset state with a setting and two calls pending. -/
def called (cfg : DlcAbove8) : State :=
  { State.reset with dlcAbove8 := cfg, calls := [.encode frame100 somePad, .decode onesLayout] }

theorem witness_OpcodeMapDecodesEveryWord :
    0x1FF0#16 &&& 0xF00F#16 = 0x1000#16 ∧ 0x2000#16 &&& 0xF00F#16 = 0x2000#16 ∧
    (0x1001#16 &&& 0xF00F#16 ≠ 0x1000#16 ∧ 0x1001#16 &&& 0xF00F#16 ≠ 0x2000#16) := by decide
theorem witness_DecodeInvertsEncode :
    (Instr.enc 15 0).wellFormed = true ∧ (Instr.decodeStdData ⟨0xFFFFFFF9#32, 0, 0, 0⟩).wellFormed = true ∧
    (Instr.decodeStdRemote ⟨2#32, 0, 0, 0⟩).wellFormed = true ∧ (Instr.decodeExtData ⟨4#32, 0, 0, 0⟩).wellFormed = true ∧
    (Instr.decodeExtRemote ⟨0xFFFFFFFF#32, 0, 0, 0⟩).wellFormed = true := by decide
theorem witness_EncodeInvertsDecode :
    decode (.command 0x1FF0#16) = .ok (.enc 15 15) ∧ decode (.call (.decode onesLayout)) = .ok (.decodeExtRemote onesLayout) :=
  ⟨rfl, rfl⟩
theorem witness_FormatsPartitionLayouts :
    encodeFrame (remoteFrame (.ext 0x1FFFFFFF) 8) zeroPad = .ok ⟨0xFFFFFFFE#32, 8#32, 0, 0⟩ := by decide
theorem witness_TableBitsReadBack :
    Stated.WellFormed frameTop ∧ Stated.canonical onesLayout ≠ onesLayout := by decide
theorem witness_StepRunsDecodedInstruction :
    (running.calls = [] ∧ running.status = .running ∧ running.program[running.pc]? = some 0x1100#16) ∧
    decodeCommand 0x1100#16 = .ok (.enc 1 0) ∧
    (called .clamp8).calls = .encode frame100 somePad :: [.decode onesLayout] ∧
    decode (.call (.encode frame100 somePad)) = .ok (.encodeStdData 0x100 2 [0xAA#8, 0xBB#8] somePad) :=
  ⟨by decide, rfl, rfl, rfl⟩
theorem witness_PlacedTableWordIsRun :
    decodeTableWord 16 0x2FF0 = some (.dec 15 15) ∧ decodeTableWord 32 5 = some (.decodeExtData ⟨5#32, 0, 0, 0⟩) := by decide
theorem witness_ProgramCounterCountsCommands :
    (State.reset.calls = [] ∧ State.reset.status = .running ∧ State.reset.pc = State.reset.program.length) ∧
    (running.calls = [] ∧ running.status = .running ∧ running.pc < running.program.length) ∧
    (nextOf (step (called .fault))).isSome = true ∧ (called .fault).calls ≠ [] ∧
    step stopped = .next stopped ∧ stopped.status ≠ .running := ⟨by decide, by decide, by decide, by decide, rfl, by decide⟩
theorem witness_ReservedCommandIsRefused :
    (start [0x200F#16] .clamp8 0 none 0 none).program[0]? = some 0x200F#16 ∧ (0x200F#16).extractLsb' 0 4 ≠ 0#4 ∧
    (0x3000#16).extractLsb' 12 4 ≠ 1#4 ∧ (0x3000#16).extractLsb' 12 4 ≠ 2#4 := by decide
theorem witness_StoppedHarnessIsSticky : stopped.status ≠ .running := by decide
theorem witness_FaultsAreRecordedAndPrecise :
    (nextOf (step (start [0x2050#16] .clamp8 0 none 0 none))).map (·.status) = some (.faulted (.unwrittenSlot .l 5) 0) ∧
    (nextOf (step (start [0xF000#16] .clamp8 0 none 0 none))).map (·.status) = some (.refused (.reservedCommand 0xF000#16) 0) ∧
    stopped.calls = [] ∧ stopped.status ≠ .running ∧
    Stated.firstDefect ⟨.std 0x800, false, 9, []⟩ = some .idOutOfRange ∧
    Stated.DlcFaults (called .fault).dlcAbove8 onesLayout := by decide
theorem witness_EncEncodesIntoSlot :
    running.readF 15 = none ∧
    (start [] .clamp8 3 (some ⟨.ext 0, false, 9, []⟩) 0 none).readF 3 = some ⟨.ext 0, false, 9, []⟩ ∧
    Stated.firstDefect ⟨.ext 0, false, 9, []⟩ = some .dlcOutOfRange ∧
    running.readF 0 = some frame100 ∧ Stated.WellFormed frame100 := by decide
theorem witness_DecDecodesIntoSlot :
    running.readL 15 = none ∧ (start [] .fault 0 none 15 (some onesLayout)).readL 15 = some onesLayout ∧
    Stated.DlcFaults .fault onesLayout ∧ Stated.DlcMaps .clamp8 onesLayout ∧ Stated.DlcMaps .fault ⟨0, 8#32, 0, 0⟩ := by decide
theorem witness_EncHoldsForEveryPad : running.readF 0 = some frame100 ∧ Stated.WellFormed frame100 := by decide
theorem witness_UnwrittenSlotFaults :
    running.readF 1 = none ∧ running.readL 0 = none ∧
    (start [0x2050#16] .clamp8 0 none 0 none).calls = [] ∧ (start [0x2050#16] .clamp8 0 none 0 none).status = .running ∧
    (nextOf (step (start [0x2050#16] .clamp8 0 none 0 none))).map (·.status) = some (.faulted (.unwrittenSlot .l 5) 0) ∧
    (nextOf (step (start [0x10F0#16] .clamp8 0 none 0 none))).map (·.status) = some (.faulted (.unwrittenSlot .f 15) 0) := by
  decide
theorem witness_EncodeOperation :
    Stated.firstDefect ⟨.std 1, true, 8, [0#8]⟩ = some .payloadLengthMismatch ∧ Stated.WellFormed (remoteFrame (.std 0x7FF) 8) := by
  decide
theorem witness_EncodeStdDataCompletes :
    (0x7FF < 2048 ∧ 8 ≤ 8 ∧ (List.replicate 8 0xFF#8).length = 8) ∧
    Stated.firstDefect ⟨.std 0x800, false, 0, []⟩ = some .idOutOfRange := by decide
theorem witness_EncodeStdRemoteCompletes :
    (0x7FF < 2048 ∧ 8 ≤ 8 ∧ ([] : List Byte) = []) ∧ Stated.firstDefect ⟨.std 0x7FF, true, 9, []⟩ = some .dlcOutOfRange := by decide
theorem witness_EncodeExtDataCompletes :
    (0x1FFFFFFF < 536870912 ∧ 0 ≤ 8 ∧ ([] : List Byte).length = 0) ∧
    Stated.firstDefect ⟨.ext 0x1FFFFFFF, false, 8, []⟩ = some .payloadLengthMismatch := by decide
theorem witness_EncodeExtRemoteCompletes :
    (0x1FFFFFFF < 536870912 ∧ 8 ≤ 8 ∧ ([] : List Byte) = []) ∧
    Stated.firstDefect ⟨.ext 0x20000000, true, 0, []⟩ = some .idOutOfRange := by decide
theorem witness_IllFormedFramesAreRejected :
    ¬ Stated.WellFormed ⟨.std 0x800, false, 0, []⟩ ∧
    encoded (encodeRow ⟨.std 0x7FF, true, 9, []⟩ zeroPad) =
      some (.fault (.frameInvariantViolation .dlcOutOfRange ⟨.std 0x7FF, true, 9, []⟩)) := by decide
theorem witness_FaultPriority :
    Stated.idLimit (.std 0x800) ≤ Stated.idNumber (.std 0x800) ∧
    (Stated.idNumber (.ext 0x1FFFFFFF) < Stated.idLimit (.ext 0x1FFFFFFF) ∧ 8 < 9) ∧
    (Stated.idNumber (.std 0x7FF) < Stated.idLimit (.std 0x7FF) ∧ 8 ≤ 8 ∧
      ([] : List Byte).length ≠ Stated.payloadDue ⟨.std 0x7FF, false, 8, []⟩) ∧
    running.readF 1 = none ∧ running.readL 1 = none ∧
    (start [] .fault 0 (some ⟨.std 0x800, false, 0, []⟩) 1 (some onesLayout)).readF 0 = some ⟨.std 0x800, false, 0, []⟩ ∧
    Stated.firstDefect ⟨.std 0x800, false, 0, []⟩ = some .idOutOfRange ∧
    (start [] .fault 0 none 1 (some onesLayout)).readL 1 = some onesLayout ∧ Stated.DlcFaults .fault onesLayout ∧
    (start [0x0000#16] .fault 0 none 0 none).program[0]? = some 0#16 := by decide
theorem witness_FaultPriority_reserved : decodeCommand 0#16 = .error (.reservedCommand 0#16) := rfl
theorem witness_PayloadBytesFillTheirLanes :
    encodeFrame frameTop zeroPad = .ok ⟨0xFFFFFFFC#32, 8#32, 0x04030201#32, 0x08070605#32⟩ ∧ 7 < frameTop.payload.length := by decide
theorem witness_PadAndZerosFillTheRest :
    encodeFrame (remoteFrame (.std 0x7FF) 8) somePad = .ok ⟨0xFFE00002#32, 8#32, 0xF3F2F1F0#32, 0xF7F6F5F4#32⟩ ∧
    (remoteFrame (.std 0x7FF) 8).payload.length ≤ 0 ∧ 1 < frame100.payload.length ∧ (Identifier.std 0x7FF).kind = .standard := by
  decide
theorem witness_IdentifierBitsArePlaced :
    encodeFrame ⟨.std 0x400, false, 0, []⟩ zeroPad = .ok ⟨0x80000000#32, 0, 0, 0⟩ ∧
    encodeFrame ⟨.ext 0x10000000, false, 0, []⟩ zeroPad = .ok ⟨0x80000004#32, 0, 0, 0⟩ := by decide
theorem witness_RequestBitIsNotTheCodecs :
    encodeFrame ⟨.ext 0x1FFFFFFF, true, 0, []⟩ zeroPad = .ok ⟨0xFFFFFFFE#32, 0, 0, 0⟩ := by decide
theorem witness_KindIsNeverInferred :
    encodeFrame ⟨.ext 0x100, false, 0, []⟩ zeroPad = .ok ⟨0x804#32, 0, 0, 0⟩ ∧
    encodeFrame ⟨.std 0x100, false, 0, []⟩ zeroPad = .ok ⟨0x20000000#32, 0, 0, 0⟩ := by decide
theorem witness_DlcMapClampsOrFaults : (8#4).toNat ≤ 8 ∧ 9 ≤ (9#4).toNat ∧ 9 ≤ (15#4).toNat := by decide
theorem witness_DecodeOperation :
    Stated.DlcMaps .fault ⟨0, 8#32, 0, 0⟩ ∧ Stated.DlcMaps .clamp8 ⟨0, 9#32, 0, 0⟩ ∧ Stated.DlcFaults .fault ⟨0, 9#32, 0, 0⟩ := by
  decide
theorem witness_DecodeStdDataCompletes :
    0xFFFFFFF9#32 &&& 6#32 = 0#32 ∧ Stated.DlcMaps .fault ⟨0xFFFFFFF9#32, 8#32, 0, 0⟩ ∧
    Stated.DlcFaults .fault ⟨0xFFFFFFF9#32, 9#32, 0, 0⟩ := by decide
theorem witness_DecodeStdRemoteCompletes :
    0xFFFFFFFB#32 &&& 6#32 = 2#32 ∧ Stated.DlcMaps .clamp8 ⟨0xFFFFFFFB#32, 15#32, 0, 0⟩ ∧
    Stated.DlcFaults .fault ⟨0xFFFFFFFB#32, 15#32, 0, 0⟩ := by decide
theorem witness_DecodeExtDataCompletes :
    0xFFFFFFFD#32 &&& 6#32 = 4#32 ∧ Stated.DlcMaps .fault ⟨0xFFFFFFFD#32, 0#32, 0, 0⟩ ∧
    Stated.DlcFaults .fault ⟨0xFFFFFFFD#32, 9#32, 0, 0⟩ := by decide
theorem witness_DecodeExtRemoteCompletes :
    0xFFFFFFFF#32 &&& 6#32 = 6#32 ∧ Stated.DlcMaps .clamp8 onesLayout ∧ Stated.DlcFaults .fault onesLayout := by decide
theorem witness_DecodeIgnoresReservedBits :
    (0x20000001#32 &&& Stated.readMask 0x20000001#32 = 0x20000008#32 &&& Stated.readMask 0x20000001#32) ∧
    Stated.rawDlc ⟨0x20000001#32, 0x11#32, 0xFF#32, 0⟩ = Stated.rawDlc ⟨0x20000008#32, 0x21#32, 0x1FF#32, 7#32⟩ ∧
    (∀ i, i < Stated.mappedDlc ⟨0x20000001#32, 0x11#32, 0xFF#32, 0⟩ →
      Stated.laneAt ⟨0x20000001#32, 0x11#32, 0xFF#32, 0⟩ i = Stated.laneAt ⟨0x20000008#32, 0x21#32, 0x1FF#32, 7#32⟩ i) := by decide
theorem witness_DecodeGivesWellFormedFrames :
    decodeLayout .fault ⟨0x20000000#32, 2#32, 0x1234BBAA#32, 0xFFFFFFFF#32⟩ = .ok frame100 := by decide
theorem witness_DecodeOfEncodeIsTheFrame : Stated.WellFormed frameTop ∧ Stated.WellFormed (remoteFrame (.std 0) 8) := by decide
theorem witness_PadsFillOnlyPadLanes : Stated.WellFormed frame100 ∧ 1 < frame100.payload.length ∧ frame100.payload.length ≤ 2 := by decide
theorem witness_EncodeIsInjective :
    Stated.WellFormed frameTop ∧ encodeFrame frameTop zeroPad = encodeFrame frameTop somePad := by decide
theorem witness_FormatIsPreserved :
    encodeFrame (remoteFrame (.std 0x7FF) 0) zeroPad = .ok ⟨0xFFE00002#32, 0, 0, 0⟩ ∧
    decodeLayout .fault ⟨0xFFFFFFFD#32, 0, 0, 0⟩ = .ok (dataFrame (.ext 0x1FFFFFFF) []) := by decide

/-- No slot of a start state but the two named ones holds anything. -/
theorem start_frames_well_formed (program : List Word16) (cfg : DlcAbove8) (i : SlotIdx) (f : Option Frame) (j : SlotIdx)
    (l : Option Layout) (h : ∀ g, f = some g → g.wf = true) : FramesWellFormed (start program cfg i f j l) := by
  intro k g hk
  simp only [start, launch, State.readF, Fin.getElem_fin, Vector.getElem_set, Vector.getElem_replicate] at hk
  split at hk
  · exact h g hk
  · cases hk

theorem start_ports_sound (program : List Word16) (cfg : DlcAbove8) (i : SlotIdx) (f : Option Frame) (j : SlotIdx)
    (l : Option Layout) : PortsSound (start program cfg i f j l) :=
  ⟨fun _ h => by simp [start, launch, State.reset] at h, fun _ h => by simp [start, launch, State.reset] at h,
    fun _ h => by simp [start, launch, State.reset] at h⟩

theorem witness_EveryStepKeepsRunControlSound : RunControlSound running ∧ (nextOf (step running)).isSome = true :=
  ⟨⟨by decide, trivial⟩, by decide⟩
theorem witness_EveryStepKeepsPortsSound : PortsSound running ∧ (nextOf (step running)).isSome = true :=
  ⟨start_ports_sound _ _ _ _ _ _, by decide⟩
theorem witness_EveryStepKeepsFramesWellFormed : FramesWellFormed running ∧ (nextOf (step running)).isSome = true :=
  ⟨start_frames_well_formed _ _ _ _ _ _ (by decide), by decide⟩
theorem witness_SoundMachineNeverStops : RunControlSound running := ⟨by decide, trivial⟩
theorem witness_NoStepWritesTheParameters : (nextOf (step (called .fault))).isSome = true := by decide
theorem witness_CodecNeverFaultsOnSoundOperands :
    FramesWellFormed (start [0x2050#16] .clamp8 0 none 0 none) ∧ (start [0x2050#16] .clamp8 0 none 0 none).dlcAbove8 = .clamp8 ∧
    (start [0x2050#16] .clamp8 0 none 0 none).status = .running ∧
    (nextOf (step (start [0x2050#16] .clamp8 0 none 0 none))).map (·.status) = some (.faulted (.unwrittenSlot .l 5) 0) :=
  ⟨start_frames_well_formed _ _ _ _ _ _ (by decide), rfl, rfl, by decide⟩
theorem witness_StepWritesAtMostOneSlot :
    (nextOf (step running)).isSome = true ∧ (nextOf (step (called .clamp8))).isSome = true ∧
    (nextOf (step (start [0x2000#16] .clamp8 0 none 0 (some onesLayout)))).bind (·.readF 0) = some (remoteFrame (.ext 0x1FFFFFFF) 8) := by
  decide
theorem witness_PortsShareNothing :
    (called .fault).calls = .encode frame100 somePad :: [.decode onesLayout] ∧
    { called .fault with calls := [.decode onesLayout] }.calls = .decode onesLayout :: [] := ⟨rfl, rfl⟩
theorem witness_ResultsDependOnInputsAlone : running.dlcAbove8 = stopped.dlcAbove8 ∧ running ≠ stopped := by decide
theorem witness_EveryRunEnds : running.pc ≤ running.program.length ∧ stopped.pc ≤ stopped.program.length ∧
    (called .fault).pc ≤ (called .fault).program.length ∧ (called .fault).calls ≠ [] := by decide
theorem witness_RoundTripPseudoInstruction :
    assembleLine (.rt 2 0 1) = some [0x1100#16, 0x2210#16] ∧ running.calls = [] ∧ running.status = .running ∧
    running.program[running.pc]? = some 0x1100#16 ∧ running.program[running.pc + 1]? = some 0x2210#16 ∧
    running.readF 0 = some frame100 ∧ Stated.WellFormed frame100 := by decide
theorem witness_AssemblyGivesCommandWords : (15 < 16 ∧ 0 < 16) ∧ (16 ≤ 16 ∨ 16 ≤ 0) := by decide

end Tests
end Sys2Proof
end

section
/-! SUPPORT. The harness's state, its run control and the two ports (spec/10_state.md): one equation per kind of step, how a
command ends, where a table word is placed, how many steps a run has left; and with them the statements of that file. -/

namespace Sys2Proof
namespace Machine

/-! ### Launch and reset (R33) -/

@[simp] theorem readF_reset (i : SlotIdx) : State.reset.readF i = none := by
  simp [State.readF, State.reset]

@[simp] theorem readL_reset (i : SlotIdx) : State.reset.readL i = none := by
  simp [State.readL, State.reset]

/-- Settles O1: launch writes the four fields it is given into the reset state. -/
theorem launchStateIsClean : Obligations.LaunchStateIsClean :=
  ⟨fun _ _ _ _ => ⟨⟨rfl, rfl, rfl, rfl⟩, rfl, rfl⟩, rfl, rfl, rfl, fun i => ⟨readF_reset i, readL_reset i⟩⟩

theorem runControlSound_reset : RunControlSound State.reset := ⟨le_rfl, trivial⟩

/-- No port has served a call at reset (log 6), so there is no output to be in form. -/
theorem portsSound_reset : PortsSound State.reset := by
  refine ⟨fun _ h => ?_, fun _ h => ?_, fun _ h => ?_⟩ <;> cases h

theorem framesWellFormed_reset : FramesWellFormed State.reset := by
  intro i f h
  rw [readF_reset] at h
  cases h

/-- Settles O49. -/
theorem resetMeetsTheInvariants : Obligations.ResetMeetsTheInvariants :=
  ⟨runControlSound_reset, portsSound_reset, framesWellFormed_reset⟩

/-! ### Calls at the ports (R17, R28) -/

theorem exec_encodeRow (f : Frame) (pad : Pad) (s : State) :
    exec (encodeRow f pad) s = .next (evalEncodePort f pad s) := by
  rcases exec_decodeCall_cases (.encode f pad) s with ⟨_, _, hc, he⟩ | ⟨_, hc, -⟩ <;> cases hc
  exact he

theorem exec_decodeRow (l : Layout) (s : State) :
    exec (decodeRow l) s = .next (evalDecodePort l.kind l.rtr l s) := by
  rcases exec_decodeCall_cases (.decode l) s with ⟨_, _, hc, -⟩ | ⟨_, hc, he⟩ <;> cases hc
  exact he

/-- A waiting call is taken from the queue and executed, whatever the harness does (log 5). -/
theorem step_of_call {s : State} {c : Call} {rest : List Call} (h : s.calls = c :: rest) :
    step s = exec (decodeCall c) { s with calls := rest } := by
  simp only [step, fetch_of_call h, decode]

/-- Settles O54: the step is one evaluation of the call's own port. -/
theorem portsShareNothing : Obligations.PortsShareNothing := by
  refine ⟨fun s f pad rest h => ?_, fun s l rest h => ?_⟩
  · rw [step_of_call h]
    exact exec_encodeRow f pad _
  · rw [step_of_call h]
    exact exec_decodeRow l _

/-- Settles O55: the state enters a port's evaluation through the parameter `DLC_ABOVE_8` alone. -/
theorem resultsDependOnInputsAlone : Obligations.ResultsDependOnInputsAlone := by
  refine ⟨fun f pad s₁ s₂ => ⟨_, _, exec_encodeRow f pad s₁, exec_encodeRow f pad s₂, rfl⟩,
    fun l s₁ s₂ hcfg => ⟨_, _, exec_decodeRow l s₁, exec_decodeRow l s₂, ?_⟩⟩
  rw [evalDecodePort_decodeOut, evalDecodePort_decodeOut, hcfg]

/-- A call leaves the harness's run control alone. -/
theorem exec_decodeCall_runControl {c : Call} {s t : State} (h : exec (decodeCall c) s = .next t) :
    t.calls = s.calls ∧ t.pc = s.pc ∧ t.status = s.status ∧ t.program = s.program := by
  rcases exec_decodeCall_cases c s with ⟨f, pad, -, he⟩ | ⟨l, -, he⟩ <;>
    (rw [he] at h; cases h; exact ⟨rfl, rfl, rfl, rfl⟩)

/-! ### Steps of the harness with no call waiting (R30, R95, R97) -/

theorem step_of_command {s : State} {w : Word16} {i : Instr} (hc : s.calls = []) (hs : s.status = .running)
    (hw : s.program[s.pc]? = some w) (hd : decodeCommand w = .ok i) : step s = exec i s := by
  simp only [step, fetch_of_command hc hs hw, decode, hd]

theorem step_of_reserved {s : State} {w : Word16} {r : RefuseReason} (hc : s.calls = []) (hs : s.status = .running)
    (hw : s.program[s.pc]? = some w) (hd : decodeCommand w = .error r) : step s = .next (takeRefusal r s) := by
  simp only [step, fetch_of_command hc hs hw, decode, hd]

theorem step_of_end {s : State} (hc : s.calls = []) (hs : s.status = .running) (hp : s.pc = s.program.length) :
    step s = .next { s with status := .done } := by
  simp only [step, fetch_of_end hc hs hp.ge, idle, hs, if_pos hp]

theorem step_of_stopped {s : State} (hc : s.calls = []) (hs : s.status ≠ .running) : step s = .next s := by
  simp only [step, fetch_of_stopped hc hs, idle]
  cases h : s.status <;> simp_all

/-- With the pc within the program or at its end a step always answers a next state. -/
theorem step_answers {s : State} (hp : s.pc ≤ s.program.length) : ∃ t, step s = .next t := by
  cases hc : s.calls with
  | cons c rest =>
    rw [step_of_call hc]
    exact exec_answers _ _
  | nil =>
    by_cases hs : s.status = .running
    · rcases hp.lt_or_eq with hlt | hend
      · have hw : s.program[s.pc]? = some s.program[s.pc] := List.getElem?_eq_getElem hlt
        cases hd : decodeCommand s.program[s.pc] with
        | ok i =>
          rw [step_of_command hc hs hw hd]
          exact exec_answers i s
        | error r => exact ⟨_, step_of_reserved hc hs hw hd⟩
      · exact ⟨_, step_of_end hc hs hend⟩
    · exact ⟨_, step_of_stopped hc hs⟩

/-- Settles O50: the pc bound is the one part of sound run control it needs. -/
theorem soundMachineNeverStops : Obligations.SoundMachineNeverStops := fun _ ⟨hp, _⟩ => step_answers hp

/-! ### How a command ends (R30) -/

/-- A command has completed and advanced the pc, or it has stopped the run where it stood. -/
def CommandEnds (s t : State) : Prop :=
  (t.pc = s.pc + 1 ∧ t.status = s.status) ∨
    (t.pc = s.pc ∧ ((∃ r, t.status = .faulted r s.pc) ∨ ∃ r, t.status = .refused r s.pc))

theorem commandEnds_encWith (pad : Pad) (d src : SlotIdx) (s : State) : CommandEnds s (encWith pad d src s) := by
  rcases encWith_cases pad d src s with ⟨-, h⟩ | ⟨-, r, -, -, h⟩ | ⟨-, l, -, -, h⟩ <;> rw [h]
  · exact .inr ⟨rfl, .inl ⟨_, rfl⟩⟩
  · exact .inr ⟨rfl, .inl ⟨_, rfl⟩⟩
  · exact .inl ⟨rfl, rfl⟩

theorem commandEnds_decSlot (d src : SlotIdx) (s : State) : CommandEnds s (decSlot d src s) := by
  rcases decSlot_cases d src s with ⟨-, h⟩ | ⟨-, r, -, -, h⟩ | ⟨-, f, -, -, h⟩ <;> rw [h]
  · exact .inr ⟨rfl, .inl ⟨_, rfl⟩⟩
  · exact .inr ⟨rfl, .inl ⟨_, rfl⟩⟩
  · exact .inl ⟨rfl, rfl⟩

theorem commandEnds_takeRefusal (r : RefuseReason) (s : State) : CommandEnds s (takeRefusal r s) :=
  .inr ⟨rfl, .inr ⟨_, rfl⟩⟩

/-- What a step does to the run control: it serves a call, runs a command, ends the run, or the run had ended before. -/
theorem step_runControl_cases {s t : State} (h : step s = .next t) :
    (s.calls ≠ [] ∧ t.pc = s.pc ∧ t.status = s.status) ∨
    (s.calls = [] ∧ s.status = .running ∧ s.pc < s.program.length ∧ CommandEnds s t) ∨
    (s.calls = [] ∧ s.status = .running ∧ s.pc = s.program.length ∧ t.pc = s.pc ∧ t.status = .done) ∨
    (s.calls = [] ∧ s.status ≠ .running ∧ t = s) := by
  rcases step_cases h with ⟨c, rest, hc, he⟩ | ⟨hc, hs, w, hw, hend⟩ | ⟨hc, hs, hp, rfl⟩ | ⟨hc, hs, rfl⟩
  · obtain ⟨-, hpc, hst, -⟩ := exec_decodeCall_runControl he
    exact .inl ⟨by simp [hc], hpc, hst⟩
  · obtain ⟨hlt, -⟩ := List.getElem?_eq_some_iff.1 hw
    refine .inr (.inl ⟨hc, hs, hlt, ?_⟩)
    rcases hend with ⟨-, rfl⟩ | ⟨-, rfl⟩ | ⟨-, rfl⟩
    · exact commandEnds_encWith _ _ _ s
    · exact commandEnds_decSlot _ _ s
    · exact commandEnds_takeRefusal _ s
  · exact .inr (.inr (.inl ⟨hc, hs, hp, rfl, rfl⟩))
  · exact .inr (.inr (.inr ⟨hc, hs, rfl⟩))

/-- Settles O11, clause by clause from what a step does to the run control. -/
theorem programCounterCountsCommands : Obligations.ProgramCounterCountsCommands := by
  refine ⟨fun s hc hs hp => step_of_end hc hs hp, fun s hc hs hlt => ?_, fun s t h hstay => ?_⟩
  · obtain ⟨t, h⟩ := step_answers hlt.le
    refine ⟨t, h, ?_⟩
    rcases step_runControl_cases h with ⟨hne, -⟩ | ⟨-, -, -, hend⟩ | ⟨-, -, hp, -⟩ | ⟨-, hne, -⟩
    · exact absurd hc hne
    · simpa only [CommandEnds, hs] using hend
    · omega
    · exact absurd hs hne
  · rcases step_runControl_cases h with ⟨-, hpc, -⟩ | ⟨hc, hs, -⟩ | ⟨-, -, -, hpc, -⟩ | ⟨-, -, rfl⟩
    · exact hpc
    · simp [hc, hs] at hstay
    · exact hpc
    · rfl

/-! ### Every run ends (R30, R112) -/

/-- A command leaves the queue of calls and the program alone. -/
theorem encWith_calls_program (pad : Pad) (d src : SlotIdx) (s : State) :
    (encWith pad d src s).calls = s.calls ∧ (encWith pad d src s).program = s.program := by
  rcases encWith_cases pad d src s with ⟨-, h⟩ | ⟨-, r, -, -, h⟩ | ⟨-, l, -, -, h⟩ <;>
    (rw [h]; exact ⟨rfl, rfl⟩)

theorem decSlot_calls_program (d src : SlotIdx) (s : State) :
    (decSlot d src s).calls = s.calls ∧ (decSlot d src s).program = s.program := by
  rcases decSlot_cases d src s with ⟨-, h⟩ | ⟨-, r, -, -, h⟩ | ⟨-, f, -, -, h⟩ <;>
    (rw [h]; exact ⟨rfl, rfl⟩)

/-- A step takes the oldest call from the queue, if there is one, and never writes the program. -/
theorem step_calls_program {s t : State} (h : step s = .next t) :
    t.calls = s.calls.tail ∧ t.program = s.program := by
  rcases step_cases h with ⟨c, rest, hc, he⟩ | ⟨hc, -, w, -, hend⟩ | ⟨hc, -, -, rfl⟩ | ⟨hc, -, rfl⟩
  · obtain ⟨hcalls, -, -, hprog⟩ := exec_decodeCall_runControl he
    exact ⟨by rw [hcalls, hc]; rfl, hprog⟩
  · rw [hc, List.tail_nil, ← hc]
    rcases hend with ⟨-, rfl⟩ | ⟨-, rfl⟩ | ⟨-, rfl⟩
    · exact encWith_calls_program _ _ _ s
    · exact decSlot_calls_program _ _ s
    · exact ⟨rfl, rfl⟩
  · exact ⟨by simp [hc], rfl⟩
  · exact ⟨by simp [hc], rfl⟩

/-- An upper bound on the steps a run has left: one for each waiting call and, while the harness runs, one for each command from
the pc on and one to become Done. -/
def stepsLeft (s : State) : Nat :=
  s.calls.length + if s.status = .running then s.program.length - s.pc + 1 else 0

theorem stepsLeft_eq_zero_iff (s : State) : stepsLeft s = 0 ↔ s.status ≠ .running ∧ s.calls = [] := by
  unfold stepsLeft
  split <;> simp_all

theorem stepsLeft_le (s : State) : stepsLeft s ≤ s.calls.length + (s.program.length - s.pc) + 1 := by
  unfold stepsLeft
  split <;> omega

/-- A step keeps the pc within the program and leaves fewer steps, until none is left. -/
theorem step_stepsLeft {s t : State} (hp : s.pc ≤ s.program.length) (h : step s = .next t) :
    t.pc ≤ t.program.length ∧ stepsLeft t ≤ stepsLeft s - 1 := by
  obtain ⟨hcalls, hprog⟩ := step_calls_program h
  rw [stepsLeft, stepsLeft, hcalls, hprog, List.length_tail]
  rcases step_runControl_cases h with ⟨hc, hpc, hst⟩ | ⟨hc, hs, hlt, hend⟩ | ⟨hc, hs, -, hpc, hst⟩ | ⟨hc, hs, rfl⟩
  · have := List.length_pos_iff.2 hc
    rw [hpc, hst]
    omega
  · rcases hend with ⟨hpc, hst⟩ | ⟨hpc, ⟨r, hst⟩ | ⟨r, hst⟩⟩
    · simp only [hpc, hst, hs, if_true]
      omega
    · simp [hc, hpc, hst, hp]
    · simp [hc, hpc, hst, hp]
  · simp [hc, hpc, hst, hp]
  · simp [hs, hp]

/-- As many steps as a run can have left bring it to its end. -/
theorem runFor_ends (n : Nat) : ∀ s, s.pc ≤ s.program.length → stepsLeft s ≤ n →
    ∃ t, runFor n s = .next t ∧ stepsLeft t = 0 := by
  induction n with
  | zero => exact fun s _ hn => ⟨s, runFor_zero s, Nat.le_zero.1 hn⟩
  | succ n ih =>
    intro s hp hn
    obtain ⟨t, h⟩ := step_answers hp
    obtain ⟨hp', hleft⟩ := step_stepsLeft hp h
    rw [runFor_succ h]
    exact ih t hp' (by omega)

/-- Settles O57: every step uses up one of the steps left. -/
theorem everyRunEnds : Obligations.EveryRunEnds := by
  intro s hp
  obtain ⟨t, hrun, hzero⟩ := runFor_ends _ s hp (stepsLeft_le s)
  exact ⟨t, hrun, (stepsLeft_eq_zero_iff t).1 hzero⟩

/-! ### Where a table word is placed (logs 7 and 8) -/

theorem length_placeCommand_prefix (program : List Word16) (pc : Nat) :
    (program.take pc ++ List.replicate (pc - program.length) 0#16).length = pc := by
  simp only [List.length_append, List.length_take, List.length_replicate]
  omega

theorem placeCommand_getElem? (program : List Word16) (pc : Nat) (w : Word16) :
    (placeCommand program pc w)[pc]? = some w := by
  have hlen := length_placeCommand_prefix program pc
  rw [placeCommand, List.getElem?_append_right hlen.le, hlen]
  simp

theorem take_placeCommand (program : List Word16) (pc : Nat) (w : Word16) :
    (placeCommand program pc w).take pc = program.take pc ++ List.replicate (pc - program.length) 0#16 :=
  List.take_left' (length_placeCommand_prefix program pc)

theorem drop_placeCommand (program : List Word16) (pc : Nat) (w : Word16) :
    (placeCommand program pc w).drop (pc + 1) = program.drop (pc + 1) := by
  rw [placeCommand, ← List.drop_drop, List.drop_left' (length_placeCommand_prefix program pc)]
  rfl

theorem decodeTableWord_eq_some_iff (nbits w : Nat) (i : Instr) :
    decodeTableWord nbits w = some i ↔ ∃ x, fetchedOfTable nbits w = some x ∧ decode x = .ok i := by
  unfold decodeTableWord
  cases fetchedOfTable nbits w with
  | none => simp
  | some x => cases hd : decode x <;> simp [hd, Except.toOption]

theorem fetchedOfTable_16 (w : Nat) : fetchedOfTable 16 w = some (.command (BitVec.ofNat 16 w)) := rfl

/-- Table bits of any other width than a command word's stand for a call. -/
theorem fetchedOfTable_call {nbits w : Nat} {x : Fetched} (hn : nbits ≠ 16) (h : fetchedOfTable nbits w = some x) :
    x = .call (layoutCall (Layout.ofBits (w % 2 ^ nbits))) := by
  rw [fetchedOfTable, if_neg hn] at h
  split at h <;> cases h
  rfl

theorem withFetchWord_of_fetched {nbits w : Nat} {x : Fetched} (h : fetchedOfTable nbits w = some x) (s : State) :
    s.withFetchWord nbits w = placeFetched s x := by
  simp only [State.withFetchWord, placeTableWord, h]

/-- A placed command is the one the next step fetches. -/
theorem step_placeFetched_command {w : Word16} {i : Instr} (hd : decodeCommand w = .ok i) (s : State) :
    step (placeFetched s (.command w)) =
      exec i { s with calls := [], status := .running, program := placeCommand s.program s.pc w } :=
  step_of_command rfl rfl (placeCommand_getElem? s.program s.pc w) hd

/-- A placed call is the one the next step serves. -/
theorem step_placeFetched_call (c : Call) (s : State) : step (placeFetched s (.call c)) = exec (decodeCall c) s :=
  step_of_call rfl

/-- Settles O10: 16 bits are a command, placed at the pc; other bits are a call, placed in front. -/
theorem placedTableWordIsRun : Obligations.PlacedTableWordIsRun := by
  intro s nbits w i h
  obtain ⟨x, hx, hd⟩ := (decodeTableWord_eq_some_iff nbits w i).1 h
  rw [withFetchWord_of_fetched hx]
  refine ⟨fun hn => ?_, fun hn => ?_⟩
  · subst hn
    cases (fetchedOfTable_16 w).symm.trans hx
    exact ⟨placeCommand s.program s.pc (BitVec.ofNat 16 w), placeCommand_getElem? _ _ _, take_placeCommand _ _ _,
      drop_placeCommand _ _ _, step_placeFetched_command hd s⟩
  · cases fetchedOfTable_call hn hx
    cases hd
    exact step_placeFetched_call _ s

end Machine
end Sys2Proof
end

section
/-! SUPPORT. The bits of an encoding and the reach of a step (spec/20_memory.md): where payload and identifier bits stand, and
what a step leaves alone; and with them the statements of that file. -/

namespace Sys2Proof

/-! ### Bit j of lane i (R36) -/

theorem Layout.lanes_getLsbD_w2 (l : Layout) {i j : Nat} (hi : i < 4) (hj : j < 8) :
    (l.lanes[i]'(by rw [l.lanes_length]; omega)).getLsbD j = l.w2.getLsbD (8 * i + j) := by
  interval_cases i <;> simp [Layout.lanes, hj]

theorem Layout.lanes_getLsbD_w3 (l : Layout) {i j : Nat} (hlo : 4 ≤ i) (hi : i < 8) (hj : j < 8) :
    l.lanes[i].getLsbD j = l.w3.getLsbD (8 * (i - 4) + j) := by
  interval_cases i <;> simp [Layout.lanes, hj]

/-- A payload byte is packed into the lane of its own index. -/
theorem Frame.pack_lanes_getElem (f : Frame) (pad : Pad) {i : Nat} (hi : i < f.payload.length) (h8 : i < 8) :
    (f.pack pad).lanes[i] = f.payload[i] := by
  simp only [Frame.pack_lanes, List.getElem_map, List.getElem_finRange]
  exact laneByte_of_lt (i := ⟨i, h8⟩) hi pad

/-! ### Bit i of the identifier (R37) -/

theorem Layout.stdId_testBit (l : Layout) {i : Nat} (hi : i < 11) : l.stdId.testBit i = l.w0.getLsbD (21 + i) := by
  rw [Layout.stdId, BitVec.testBit_toNat, BitVec.getLsbD_extractLsb']
  simp [hi]

theorem Layout.extId_testBit (l : Layout) {i : Nat} (hi : i < 29) : l.extId.testBit i = l.w0.getLsbD (3 + i) := by
  rw [Layout.extId, BitVec.testBit_toNat, BitVec.getLsbD_extractLsb']
  simp [hi]

namespace Machine

/-- Settles O27: a successful encoding packs the frame, and a packed payload byte is its lane. -/
theorem payloadBytesFillTheirLanes : Obligations.PayloadBytesFillTheirLanes := by
  intro f pad l h i j hi hj h8
  obtain ⟨-, rfl⟩ := (encodeFrame_eq_ok_iff f pad l).1 h
  rw [← f.pack_lanes_getElem pad hi h8]
  exact ⟨fun hlo => (Layout.lanes_getLsbD_w2 _ hlo hj).symm, fun hhi => (Layout.lanes_getLsbD_w3 _ hhi h8 hj).symm⟩

/-- Settles O29: the packed identifier field is the value cut to its width, which keeps every bit below the width. -/
theorem identifierBitsArePlaced : Obligations.IdentifierBitsArePlaced := by
  refine ⟨fun v rtr dlc payload pad l i h hi => ?_, fun v rtr dlc payload pad l i h hi => ?_⟩ <;>
    obtain ⟨-, rfl⟩ := (encodeFrame_eq_ok_iff _ pad l).1 h
  · rw [← Layout.stdId_testBit _ hi, Frame.pack_stdId _ pad v rfl, Nat.testBit_mod_two_pow]
    simp [hi]
  · rw [← Layout.extId_testBit _ hi, Frame.pack_extId _ pad v rfl, Nat.testBit_mod_two_pow]
    simp [hi]

/-! ### What is executed (R43) -/

/-- Settles O9: the decoder gives every call one instruction, so the second clause is the step that serves a call. -/
theorem stepRunsDecodedInstruction : Obligations.StepRunsDecodedInstruction := by
  refine ⟨fun s w i hc hs hw hd => step_of_command hc hs hw hd, fun s c rest i hc hd => ?_⟩
  cases hd
  exact step_of_call hc

/-! ### What a step leaves alone (R27, R40, R45) -/

theorem encWith_dlcAbove8 (pad : Pad) (d src : SlotIdx) (s : State) :
    (encWith pad d src s).dlcAbove8 = s.dlcAbove8 := by
  rcases encWith_cases pad d src s with ⟨-, h⟩ | ⟨-, r, -, -, h⟩ | ⟨-, l, -, -, h⟩ <;> (rw [h]; rfl)

theorem decSlot_dlcAbove8 (d src : SlotIdx) (s : State) : (decSlot d src s).dlcAbove8 = s.dlcAbove8 := by
  rcases decSlot_cases d src s with ⟨-, h⟩ | ⟨-, r, -, -, h⟩ | ⟨-, f, -, -, h⟩ <;> (rw [h]; rfl)

/-- A call writes neither the parameter nor a slot. -/
theorem exec_decodeCall_dlcAbove8_slots {c : Call} {s t : State} (h : exec (decodeCall c) s = .next t) :
    t.dlcAbove8 = s.dlcAbove8 ∧ t.fslots = s.fslots ∧ t.lslots = s.lslots := by
  rcases exec_decodeCall_cases c s with ⟨f, pad, -, he⟩ | ⟨l, -, he⟩ <;>
    (rw [he] at h; cases h; exact ⟨rfl, rfl, rfl⟩)

theorem step_dlcAbove8 {s t : State} (h : step s = .next t) : t.dlcAbove8 = s.dlcAbove8 := by
  rcases step_cases h with ⟨c, rest, -, he⟩ | ⟨-, -, w, -, hend⟩ | ⟨-, -, -, rfl⟩ | ⟨-, -, rfl⟩
  · exact (exec_decodeCall_dlcAbove8_slots he).1
  · rcases hend with ⟨-, rfl⟩ | ⟨-, rfl⟩ | ⟨-, rfl⟩
    · exact encWith_dlcAbove8 _ _ _ s
    · exact decSlot_dlcAbove8 _ _ s
    · rfl
  · rfl
  · rfl

/-- Settles O51. -/
theorem noStepWritesTheParameters : Obligations.NoStepWritesTheParameters :=
  fun _ _ h => ⟨(step_calls_program h).2, step_dlcAbove8 h⟩

/-- ENC writes at most its destination, a layout slot. -/
theorem encWith_slots (pad : Pad) (d src : SlotIdx) (s : State) :
    (encWith pad d src s).fslots = s.fslots ∧ ∀ j, j ≠ d → (encWith pad d src s).readL j = s.readL j := by
  rcases encWith_cases pad d src s with ⟨-, h⟩ | ⟨-, r, -, -, h⟩ | ⟨-, l, -, -, h⟩ <;> rw [h]
  · exact ⟨rfl, fun _ _ => rfl⟩
  · exact ⟨rfl, fun _ _ => rfl⟩
  · exact ⟨rfl, fun j hj => readL_writeL_of_ne s.drawn l hj.symm⟩

/-- DEC writes at most its destination, a frame slot. -/
theorem decSlot_slots (d src : SlotIdx) (s : State) :
    (decSlot d src s).lslots = s.lslots ∧ ∀ j, j ≠ d → (decSlot d src s).readF j = s.readF j := by
  rcases decSlot_cases d src s with ⟨-, h⟩ | ⟨-, r, -, -, h⟩ | ⟨-, f, -, -, h⟩ <;> rw [h]
  · exact ⟨rfl, fun _ _ => rfl⟩
  · exact ⟨rfl, fun _ _ => rfl⟩
  · exact ⟨rfl, fun j hj => readF_writeF_of_ne s f hj.symm⟩

/-- Settles O53: of all a step can do, only ENC and DEC write a slot, each its own destination. -/
theorem stepWritesAtMostOneSlot : Obligations.StepWritesAtMostOneSlot := by
  intro s t h
  rcases step_cases h with ⟨c, rest, -, he⟩ | ⟨hc, -, w, hw, hend⟩ | ⟨-, -, -, rfl⟩ | ⟨-, -, rfl⟩
  · exact .inl (exec_decodeCall_dlcAbove8_slots he).2
  · rcases hend with ⟨hd, rfl⟩ | ⟨hd, rfl⟩ | ⟨-, rfl⟩
    · exact .inr (.inr ⟨w, cmdD w, cmdS w, hc, hw, hd, encWith_slots _ _ _ s⟩)
    · exact .inr (.inl ⟨w, cmdD w, cmdS w, hc, hw, hd, decSlot_slots _ _ s⟩)
    · exact .inl ⟨rfl, rfl⟩
  · exact .inl ⟨rfl, rfl⟩
  · exact .inl ⟨rfl, rfl⟩

end Machine
end Sys2Proof
end

section
/-! SUPPORT. The two encodings of spec/30_encoding.md: the fields of a command word (R60, R61), the formats of a layout (R56), what
DECODE reads of W0 (R54), an encoding in plain numbers and its decoding (R59), and the lines of assembly (R62, R63); and with them
the statements of that file. -/

namespace Sys2Proof

/-! ### The fields of a command word (R60) -/

theorem encodeCommand_toNat (op : BitVec 4) (d s : SlotIdx) :
    (encodeCommand op d s).toNat = op.toNat * 4096 + d.val * 256 + s.val * 16 := by
  simp only [encodeCommand, BitVec.toNat_append, BitVec.toNat_ofFin, BitVec.toNat_ofNat, Nat.zero_mod, Nat.or_zero]
  rw [← Nat.shiftLeft_add_eq_or_of_lt (by omega), ← Nat.shiftLeft_add_eq_or_of_lt (by omega)]
  simp only [Nat.shiftLeft_eq]
  omega

theorem cmdOp_toNat (w : Word16) : (cmdOp w).toNat = w.toNat / 4096 := by
  rw [cmdOp, BitVec.extractLsb'_toNat, Nat.shiftRight_eq_div_pow]
  omega

theorem cmdD_val (w : Word16) : (cmdD w).val = w.toNat / 256 % 16 := by
  simp [cmdD, Nat.shiftRight_eq_div_pow]

theorem cmdS_val (w : Word16) : (cmdS w).val = w.toNat / 16 % 16 := by
  simp [cmdS, Nat.shiftRight_eq_div_pow]

theorem cmdZ_toNat (w : Word16) : (cmdZ w).toNat = w.toNat % 16 := by
  simp [cmdZ]

@[simp] theorem cmdOp_encodeCommand (op : BitVec 4) (d s : SlotIdx) : cmdOp (encodeCommand op d s) = op := by
  apply BitVec.eq_of_toNat_eq
  rw [cmdOp_toNat, encodeCommand_toNat]
  omega

@[simp] theorem cmdD_encodeCommand (op : BitVec 4) (d s : SlotIdx) : cmdD (encodeCommand op d s) = d := by
  apply Fin.ext
  rw [cmdD_val, encodeCommand_toNat]
  omega

@[simp] theorem cmdS_encodeCommand (op : BitVec 4) (d s : SlotIdx) : cmdS (encodeCommand op d s) = s := by
  apply Fin.ext
  rw [cmdS_val, encodeCommand_toNat]
  omega

@[simp] theorem cmdZ_encodeCommand (op : BitVec 4) (d s : SlotIdx) : cmdZ (encodeCommand op d s) = 0#4 := by
  apply BitVec.eq_of_toNat_eq
  rw [cmdZ_toNat, encodeCommand_toNat, BitVec.toNat_ofNat]
  omega

/-- A command word whose must-be-zero field is 0 is made of its other three fields. -/
theorem encodeCommand_fields {w : Word16} (hz : cmdZ w = 0#4) : encodeCommand (cmdOp w) (cmdD w) (cmdS w) = w := by
  have hlow : w.toNat % 16 = 0 := by rw [← cmdZ_toNat, hz]; rfl
  apply BitVec.eq_of_toNat_eq
  rw [encodeCommand_toNat, cmdOp_toNat, cmdD_val, cmdS_val]
  omega

/-- Settles O2. -/
theorem commandFieldsArePlaced : Obligations.CommandFieldsArePlaced := fun op d s =>
  ⟨encodeCommand_toNat op d s, cmdOp_encodeCommand op d s, cmdD_encodeCommand op d s, cmdS_encodeCommand op d s,
    cmdZ_encodeCommand op d s⟩

/-! ### The opcode map (R61) -/

theorem decodeCommand_of_enc {w : Word16} (hop : cmdOp w = 0x1#4) (hz : cmdZ w = 0#4) :
    decodeCommand w = .ok (.enc (cmdD w) (cmdS w)) := by
  rw [decodeCommand, if_pos hz, if_pos hop]

theorem decodeCommand_of_dec {w : Word16} (hop : cmdOp w = 0x2#4) (hz : cmdZ w = 0#4) :
    decodeCommand w = .ok (.dec (cmdD w) (cmdS w)) := by
  rw [decodeCommand, if_pos hz, if_neg (by rw [hop]; decide), if_pos hop]

theorem decodeCommand_of_reserved {w : Word16} (henc : ¬ (cmdOp w = 0x1#4 ∧ cmdZ w = 0#4))
    (hdec : ¬ (cmdOp w = 0x2#4 ∧ cmdZ w = 0#4)) : decodeCommand w = .error (.reservedCommand w) := by
  by_cases hz : cmdZ w = 0#4
  · rw [decodeCommand, if_pos hz, if_neg fun h => henc ⟨h, hz⟩, if_neg fun h => hdec ⟨h, hz⟩]
  · rw [decodeCommand, if_neg hz]

/-- A command word decodes to nothing but the ENC or the DEC of its own slots. -/
theorem decodeCommand_eq_ok_iff (w : Word16) (i : Instr) :
    decodeCommand w = .ok i ↔
      cmdZ w = 0#4 ∧ (cmdOp w = 0x1#4 ∧ i = .enc (cmdD w) (cmdS w) ∨ cmdOp w = 0x2#4 ∧ i = .dec (cmdD w) (cmdS w)) := by
  constructor
  · intro h
    by_cases henc : cmdOp w = 0x1#4 ∧ cmdZ w = 0#4
    · obtain ⟨hop, hz⟩ := henc
      cases (decodeCommand_of_enc hop hz).symm.trans h
      exact ⟨hz, .inl ⟨hop, rfl⟩⟩
    · by_cases hdec : cmdOp w = 0x2#4 ∧ cmdZ w = 0#4
      · obtain ⟨hop, hz⟩ := hdec
        cases (decodeCommand_of_dec hop hz).symm.trans h
        exact ⟨hz, .inr ⟨hop, rfl⟩⟩
      · cases (decodeCommand_of_reserved henc hdec).symm.trans h
  · rintro ⟨hz, ⟨hop, rfl⟩ | ⟨hop, rfl⟩⟩
    · exact decodeCommand_of_enc hop hz
    · exact decodeCommand_of_dec hop hz

theorem decodeCommand_encodeCommand_enc (d s : SlotIdx) :
    decodeCommand (encodeCommand 0x1#4 d s) = .ok (.enc d s) := by
  simp [decodeCommand_eq_ok_iff]

theorem decodeCommand_encodeCommand_dec (d s : SlotIdx) :
    decodeCommand (encodeCommand 0x2#4 d s) = .ok (.dec d s) := by
  simp [decodeCommand_eq_ok_iff]

theorem cmdOp_and_opcodeMask (w : Word16) : cmdOp (w &&& 0xF00F#16) = cmdOp w := by
  rw [cmdOp, BitVec.extractLsb'_and]
  exact BitVec.and_allOnes

theorem cmdD_and_opcodeMask (w : Word16) : cmdD (w &&& 0xF00F#16) = 0 := by
  rw [cmdD, BitVec.extractLsb'_and]
  exact congrArg BitVec.toFin BitVec.and_zero

theorem cmdS_and_opcodeMask (w : Word16) : cmdS (w &&& 0xF00F#16) = 0 := by
  rw [cmdS, BitVec.extractLsb'_and]
  exact congrArg BitVec.toFin BitVec.and_zero

theorem cmdZ_and_opcodeMask (w : Word16) : cmdZ (w &&& 0xF00F#16) = cmdZ w := by
  rw [cmdZ, BitVec.extractLsb'_and]
  exact BitVec.and_allOnes

/-- The opcode map's mask asks for the op field and a must-be-zero field of 0, and leaves the slots open. -/
theorem and_opcodeMask_eq_iff (w : Word16) (op : BitVec 4) :
    w &&& 0xF00F#16 = encodeCommand op 0 0 ↔ cmdOp w = op ∧ cmdZ w = 0#4 := by
  rw [← cmdOp_and_opcodeMask w, ← cmdZ_and_opcodeMask w]
  constructor
  · intro h
    rw [h]
    exact ⟨cmdOp_encodeCommand op 0 0, cmdZ_encodeCommand op 0 0⟩
  · rintro ⟨hop, hz⟩
    rw [← encodeCommand_fields hz, hop, cmdD_and_opcodeMask, cmdS_and_opcodeMask]

/-- Settles O3. -/
theorem opcodeMapDecodesEveryWord : Obligations.OpcodeMapDecodesEveryWord := by
  intro w
  have hd : Stated.slotOf (w.toNat / 256) = cmdD w := Fin.ext (cmdD_val w).symm
  have hs : Stated.slotOf (w.toNat / 16) = cmdS w := Fin.ext (cmdS_val w).symm
  have henc : w &&& 0xF00F#16 = 0x1000#16 ↔ cmdOp w = 0x1#4 ∧ cmdZ w = 0#4 := and_opcodeMask_eq_iff w 0x1#4
  have hdec : w &&& 0xF00F#16 = 0x2000#16 ↔ cmdOp w = 0x2#4 ∧ cmdZ w = 0#4 := and_opcodeMask_eq_iff w 0x2#4
  rw [hd, hs, ne_eq, ne_eq, henc, hdec]
  exact ⟨fun ⟨hop, hz⟩ => decodeCommand_of_enc hop hz, fun ⟨hop, hz⟩ => decodeCommand_of_dec hop hz,
    decodeCommand_of_reserved⟩


/-! ### The rows of the two ports (R56) -/

theorem decodeRow_of_stdData {l : Layout} (h : l.format = .stdData) : decodeRow l = .decodeStdData l := by
  rw [decodeRow, h]

theorem decodeRow_of_stdRemote {l : Layout} (h : l.format = .stdRemote) : decodeRow l = .decodeStdRemote l := by
  rw [decodeRow, h]

theorem decodeRow_of_extData {l : Layout} (h : l.format = .extData) : decodeRow l = .decodeExtData l := by
  rw [decodeRow, h]

theorem decodeRow_of_extRemote {l : Layout} (h : l.format = .extRemote) : decodeRow l = .decodeExtRemote l := by
  rw [decodeRow, h]

/-- Settles O4: a command word gives its fields back, an ENCODE row its frame, a DECODE row the layout whose format it has. -/
theorem decodeInvertsEncode : Obligations.DecodeInvertsEncode := by
  intro i hwf
  cases i with
  | enc d s => exact decodeCommand_encodeCommand_enc d s
  | dec d s => exact decodeCommand_encodeCommand_dec d s
  | encodeStdData v dlc payload pad => rfl
  | encodeStdRemote v dlc payload pad => rfl
  | encodeExtData v dlc payload pad => rfl
  | encodeExtRemote v dlc payload pad => rfl
  | decodeStdData l => exact congrArg Except.ok (decodeRow_of_stdData (of_decide_eq_true hwf))
  | decodeStdRemote l => exact congrArg Except.ok (decodeRow_of_stdRemote (of_decide_eq_true hwf))
  | decodeExtData l => exact congrArg Except.ok (decodeRow_of_extData (of_decide_eq_true hwf))
  | decodeExtRemote l => exact congrArg Except.ok (decodeRow_of_extRemote (of_decide_eq_true hwf))

theorem encode_decodeCommand {w : Word16} {i : Instr} (h : decodeCommand w = .ok i) :
    encode i = .command w ∧ i.wellFormed = true := by
  obtain ⟨hz, ⟨hop, rfl⟩ | ⟨hop, rfl⟩⟩ := (decodeCommand_eq_ok_iff w i).1 h <;>
    exact ⟨congrArg Fetched.command (hop ▸ encodeCommand_fields hz), rfl⟩

theorem encode_encodeRow (f : Frame) (pad : Pad) :
    encode (encodeRow f pad) = .call (.encode f pad) ∧ (encodeRow f pad).wellFormed = true := by
  obtain ⟨id, rtr, dlc, payload⟩ := f
  cases id <;> cases rtr <;> exact ⟨rfl, rfl⟩

theorem encode_decodeRow (l : Layout) :
    encode (decodeRow l) = .call (.decode l) ∧ (decodeRow l).wellFormed = true := by
  cases h : l.format with
  | stdData => rw [decodeRow_of_stdData h]; exact ⟨rfl, decide_eq_true h⟩
  | stdRemote => rw [decodeRow_of_stdRemote h]; exact ⟨rfl, decide_eq_true h⟩
  | extData => rw [decodeRow_of_extData h]; exact ⟨rfl, decide_eq_true h⟩
  | extRemote => rw [decodeRow_of_extRemote h]; exact ⟨rfl, decide_eq_true h⟩

/-- Settles O5, for a command word and for a call at each port. -/
theorem encodeInvertsDecode : Obligations.EncodeInvertsDecode := by
  intro x i h
  match x, h with
  | .command w, h => exact encode_decodeCommand h
  | .call (.encode f pad), h => cases h; exact encode_encodeRow f pad
  | .call (.decode l), h => cases h; exact encode_decodeRow l

/-- Settles O6: the words are closed, so the decoder's answers are computed. -/
theorem specWordsDecode : Obligations.SpecWordsDecode := ⟨rfl, rfl, rfl, rfl, rfl, rfl, rfl, rfl⟩

/-! ### The fixed bits of an encoding (R56) -/

theorem packW0_std_mask (v : Nat) (rtr : Bool) :
    packW0 (.std v) rtr &&& 0x001FFFFF#32 = ideBits .standard ||| rtrBits rtr := by
  rw [packW0, BitVec.or_assoc]
  exact Laws.TableRow.shifted_std _ (ideBits .standard ||| rtrBits rtr) (by cases rtr <;> decide)

theorem packW0_ext_mask (v : Nat) (rtr : Bool) :
    packW0 (.ext v) rtr &&& 0x7#32 = ideBits .extended ||| rtrBits rtr := by
  rw [packW0, BitVec.or_assoc]
  exact Laws.TableRow.shifted_ext _ (ideBits .extended ||| rtrBits rtr) (by cases rtr <;> decide)

theorem packW1_mask (dlc : Nat) : packW1 dlc &&& 0xFFFFFFF0#32 = 0#32 := by
  rw [packW1]
  generalize BitVec.ofNat 4 dlc = code
  revert code
  decide

/-- A layout's DECODE row, by the two bits of W0 that R56's mask keeps. -/
theorem decodeRow_by_mask (l : Layout) :
    (l.w0 &&& 6#32 = 0#32 ∧ decodeRow l = .decodeStdData l) ∨
    (l.w0 &&& 6#32 = 2#32 ∧ decodeRow l = .decodeStdRemote l) ∨
    (l.w0 &&& 6#32 = 4#32 ∧ decodeRow l = .decodeExtData l) ∨
    (l.w0 &&& 6#32 = 6#32 ∧ decodeRow l = .decodeExtRemote l) := by
  rw [Laws.TableRow.format_mask]
  cases h : l.format with
  | stdData => exact .inl ⟨rfl, decodeRow_of_stdData h⟩
  | stdRemote => exact .inr (.inl ⟨rfl, decodeRow_of_stdRemote h⟩)
  | extData => exact .inr (.inr (.inl ⟨rfl, decodeRow_of_extData h⟩))
  | extRemote => exact .inr (.inr (.inr ⟨rfl, decodeRow_of_extRemote h⟩))

namespace Machine

/-- Settles O7: the mask 6 keeps IDE and RTR, which name the format, and a packed frame has its row's fixed bits. -/
theorem formatsPartitionLayouts : Obligations.FormatsPartitionLayouts := by
  refine ⟨decodeRow_by_mask, fun f pad l h => ?_⟩
  obtain ⟨-, rfl⟩ := (encodeFrame_eq_ok_iff f pad l).1 h
  refine ⟨packW1_mask f.dlc, ?_⟩
  obtain ⟨id, rtr, dlc, payload⟩ := f
  cases id with
  | std v => cases rtr with
    | false => exact packW0_std_mask v false
    | true => exact packW0_std_mask v true
  | ext v => cases rtr with
    | false => exact packW0_ext_mask v false
    | true => exact packW0_ext_mask v true

/-! ### What DECODE reads of W0 (R54) -/

/-- DECODE looks at no bit of W0 below RTR. -/
theorem decodeLayout_congr_w0 {w w' : Word32} (h : ∀ i, 1 ≤ i → w.getLsbD i = w'.getLsbD i) (cfg : DlcAbove8)
    (w1 w2 w3 : Word32) : decodeLayout cfg ⟨w, w1, w2, w3⟩ = decodeLayout cfg ⟨w', w1, w2, w3⟩ := by
  have hfield : ∀ start len, 1 ≤ start → w.extractLsb' start len = w'.extractLsb' start len := by
    intro start len hs
    ext i hi
    simp [h (start + i) (by omega)]
  have hid : ∀ k, Layout.idAs ⟨w, w1, w2, w3⟩ k = Layout.idAs ⟨w', w1, w2, w3⟩ k := by
    intro k
    cases k <;> simp [Layout.idAs, Layout.stdId, Layout.extId, hfield]
  have hkind : Layout.kind ⟨w, w1, w2, w3⟩ = Layout.kind ⟨w', w1, w2, w3⟩ := by
    rw [Layout.kind, Layout.kind, Layout.ide, Layout.ide, h 2 (by omega)]
  have hrtr : Layout.rtr ⟨w, w1, w2, w3⟩ = Layout.rtr ⟨w', w1, w2, w3⟩ := h 1 le_rfl
  rw [decodeLayout, decodeLayout, hkind, hrtr]
  simp only [decodeAs, Layout.frameAs, hid]
  rfl

theorem getLsbD_or_one (w : Word32) {i : Nat} (hi : 1 ≤ i) : (w ||| 1#32).getLsbD i = w.getLsbD i := by
  have hne : i ≠ 0 := by omega
  simp [hne]

theorem getLsbD_and_not_one (w : Word32) {i : Nat} (hi : 1 ≤ i) : (w &&& 0xFFFFFFFE#32).getLsbD i = w.getLsbD i := by
  have hne : i ≠ 0 := by omega
  rw [show 0xFFFFFFFE#32 = ~~~1#32 from rfl, BitVec.getLsbD_and, BitVec.getLsbD_not]
  by_cases h : i < 32
  · simp [hne, h]
  · simp [BitVec.getLsbD_of_ge w i (by omega)]

/-- Settles O30: a packed W0 has bit 0 clear, and setting or clearing it moves no bit that DECODE reads. -/
theorem requestBitIsNotTheCodecs : Obligations.RequestBitIsNotTheCodecs := by
  refine ⟨fun f pad l h => ?_, fun cfg l => ?_, fun cfg l => ?_⟩
  · obtain ⟨-, rfl⟩ := (encodeFrame_eq_ok_iff f pad l).1 h
    exact packW0_req f.id f.rtr
  · exact decodeLayout_congr_w0 (fun i hi => getLsbD_or_one l.w0 hi) cfg l.w1 l.w2 l.w3
  · exact decodeLayout_congr_w0 (fun i hi => getLsbD_and_not_one l.w0 hi) cfg l.w1 l.w2 l.w3

/-! ### Where the operations answer (R59) -/

theorem dlcCode_toNat (l : Layout) : l.dlcCode.toNat = Stated.rawDlc l := by
  simp [Layout.dlcCode, Stated.rawDlc]

/-- The checks on a frame are the plain ones of R20 to R23. -/
theorem wf_iff_wellFormed (f : Frame) : f.wf = true ↔ Stated.WellFormed f := by
  rw [Frame.wf_iff, Frame.dlcInRange_iff, Frame.payloadLength_iff]
  refine and_congr ?_ Iff.rfl
  cases h : f.id with
  | std v => exact f.idInRange_std v h
  | ext v => exact f.idInRange_ext v h

/-- Settles O40: DECODE faults where the data-length mapping does, and ENCODE where a check fails. -/
theorem operationsAreTotal : Obligations.OperationsAreTotal := by
  refine ⟨fun l => ⟨_, (decodeAs_eq_ok_iff _ _ _ l _).2 ⟨_, dlcMap_clamp l.dlcCode, rfl⟩⟩, fun l => ?_, fun f pad => ?_⟩
  · simp [decodeLayout, decodeAs_eq_fault_iff, dlcMap_eq_fault_iff, dlcCode_toNat]
  · simp [encodeFrame_eq_ok_iff, wf_iff_wellFormed]

/-! ### An encoding in plain numbers, and its decoding (R64, R83) -/

theorem laneByte_toNat (payload : List Byte) (pad : Pad) (i : Fin 8) :
    (laneByte payload pad i).toNat = Stated.byteAt payload pad i := by
  unfold Stated.byteAt
  split
  · rename_i h; rw [laneByte_of_lt h]
  · rename_i h; rw [laneByte_of_ge (Nat.le_of_not_lt h)]

/-- Four lane bytes joined are the data word in plain numbers (R36). -/
theorem join_laneByte (payload : List Byte) (pad : Pad) (i0 i1 i2 i3 : Fin 8) :
    (laneByte payload pad i3 ++ laneByte payload pad i2 ++ laneByte payload pad i1 ++ laneByte payload pad i0 : BitVec 32) =
      Stated.dataWord payload pad i0 i1 i2 i3 := by
  apply BitVec.eq_of_toNat_eq
  rw [Stated.dataWord, ← laneByte_toNat, ← laneByte_toNat, ← laneByte_toNat, ← laneByte_toNat, ← join_toNat,
    BitVec.ofNat_toNat, BitVec.setWidth_eq]

theorem idBits_std_toNat {v : Nat} (h : v < 2048) : (idBits (.std v)).toNat = v * 2 ^ 21 := by
  simp [idBits, Nat.shiftLeft_eq]
  omega

theorem idBits_ext_toNat {v : Nat} (h : v < 536870912) : (idBits (.ext v)).toNat = v * 2 ^ 3 := by
  simp [idBits, Nat.shiftLeft_eq]
  omega

theorem flags_std_toNat (rtr : Bool) : (ideBits .standard ||| rtrBits rtr).toNat = if rtr = true then 2 else 0 := by
  cases rtr <;> rfl

theorem flags_ext_toNat (rtr : Bool) : (ideBits .extended ||| rtrBits rtr).toNat = 4 + if rtr = true then 2 else 0 := by
  cases rtr <;> rfl

/-- The ID word of an identifier in range, as a number (R50 to R53). -/
theorem packW0_toNat_eq_idWord {f : Frame} (h : Stated.idNumber f.id < Stated.idLimit f.id) :
    (packW0 f.id f.rtr).toNat = Stated.idWord f := by
  obtain ⟨id, rtr, dlc, payload⟩ := f
  rw [packW0_toNat, Stated.idWord]
  cases id with
  | std v => simp only [Identifier.kind, idBits_std_toNat (v := v) h, flags_std_toNat]
  | ext v => simp only [Identifier.kind, idBits_ext_toNat (v := v) h, flags_ext_toNat, Nat.add_assoc]

theorem packW1_of_le {dlc : Nat} (h : dlc ≤ 8) : packW1 dlc = BitVec.ofNat 32 dlc := by
  apply BitVec.eq_of_toNat_eq
  simp [packW1]
  omega

/-- A well-formed frame packed is its encoding in plain numbers. -/
theorem pack_eq_encoding {f : Frame} (h : Stated.WellFormed f) (pad : Pad) : f.pack pad = Stated.encoding f pad := by
  obtain ⟨hid, hdlc, -⟩ := h
  rw [Frame.pack, packW1_of_le hdlc, packW2, packW3, join_laneByte, join_laneByte, Stated.encoding,
    ← packW0_toNat_eq_idWord hid, Stated.layoutOf, BitVec.ofNat_toNat, BitVec.setWidth_eq]

/-- The first lanes of a packed frame, as many as the payload has bytes, are the payload. -/
theorem pack_lanes_take {f : Frame} (h : f.payload.length ≤ 8) (pad : Pad) :
    (f.pack pad).lanes.take f.payload.length = f.payload := by
  refine List.ext_getElem (by simp [h]) fun i _ hi => ?_
  rw [List.getElem_take]
  exact f.pack_lanes_getElem pad hi (by omega)

/-- DECODE gives a packed well-formed frame back, whatever the pad and the setting (R83). -/
theorem decodeLayout_pack {f : Frame} (h : f.wf = true) (cfg : DlcAbove8) (pad : Pad) :
    decodeLayout cfg (f.pack pad) = .ok f := by
  obtain ⟨hid, hdlc, hlen⟩ := f.wf_iff.1 h
  rw [Frame.dlcInRange_iff] at hdlc
  rw [Frame.payloadLength_iff] at hlen
  have hcode : (f.pack pad).dlcCode.toNat = f.dlc := by rw [Frame.pack_dlcCode]; omega
  refine (decodeAs_eq_ok_iff _ _ _ _ _).2 ⟨f.dlc, hcode ▸ dlcMap_of_le (hcode ▸ hdlc) cfg, ?_⟩
  have hpayload : f.payload = if f.rtr then [] else (f.pack pad).lanes.take f.dlc := by
    cases hr : f.rtr with
    | true => simpa [hr] using hlen
    | false =>
      replace hlen : f.payload.length = f.dlc := by simpa [hr] using hlen
      rw [← hlen, pack_lanes_take (by omega)]; rfl
  rw [Layout.frameAs, Frame.pack_kind, Frame.pack_idAs f pad hid, Frame.pack_rtr, ← hpayload]

/-! ### Lines of assembly (R62, R63) -/

theorem asmSlot_of_lt {n : Nat} (h : n < 16) : asmSlot n = some ⟨n, h⟩ := dif_pos h

theorem asmSlot_of_ge {n : Nat} (h : 16 ≤ n) : asmSlot n = none := dif_neg (Nat.not_lt.2 h)

@[simp] theorem asmSlot_val (i : SlotIdx) : asmSlot i.val = some i := asmSlot_of_lt i.isLt

theorem assembleLine_enc (l f : SlotIdx) : assembleLine (.enc l.val f.val) = some [encodeCommand 0x1#4 l f] := by
  simp [assembleLine]

theorem assembleLine_dec (f l : SlotIdx) : assembleLine (.dec f.val l.val) = some [encodeCommand 0x2#4 f l] := by
  simp [assembleLine]

theorem assembleLine_rt (d s t : SlotIdx) :
    assembleLine (.rt d.val s.val t.val) = some [encodeCommand 0x1#4 t s, encodeCommand 0x2#4 d t] := by
  simp [assembleLine]

theorem encodeCommand_eq_ofNat (op : BitVec 4) (d s : SlotIdx) :
    encodeCommand op d s = BitVec.ofNat 16 (op.toNat * 4096 + d.val * 256 + s.val * 16) := by
  rw [← encodeCommand_toNat, BitVec.ofNat_toNat, BitVec.setWidth_eq]

/-- Settles O59: the lines' words from their slots, and RT by which of its three slot names is one. -/
theorem assemblyGivesCommandWords : Obligations.AssemblyGivesCommandWords := by
  refine ⟨fun l f hl hf => ?_, fun f l hf hl => ?_, fun x y h => ?_, fun d s t => ?_⟩
  · rw [assembleLine_enc ⟨l, hl⟩ ⟨f, hf⟩, encodeCommand_eq_ofNat]
    rfl
  · rw [assembleLine_dec ⟨f, hf⟩ ⟨l, hl⟩, encodeCommand_eq_ofNat]
    rfl
  · rcases h with h | h <;> simp [assembleLine, asmSlot_of_ge h]
  · simp only [assembleLine, assemble]
    cases asmSlot d <;> cases asmSlot s <;> cases asmSlot t <;> rfl

/-! ### RT runs (R63) -/

theorem step_of_enc {s : State} {d src : SlotIdx} {f : Frame} (hc : s.calls = []) (hs : s.status = .running)
    (hw : s.program[s.pc]? = some (encodeCommand 0x1#4 d src)) (hf : s.readF src = some f) (hwf : f.wf = true) :
    step s = .next (s.drawn.writeL d (f.pack (Config.padDraw s.draws))).advance := by
  rw [step_of_command hc hs hw (decodeCommand_encodeCommand_enc d src)]
  simp only [exec, execEnc, encWith, hf, encodeFrame_of_wf hwf]

theorem step_of_dec {s : State} {d src : SlotIdx} {l : Layout} {f : Frame} (hc : s.calls = []) (hs : s.status = .running)
    (hw : s.program[s.pc]? = some (encodeCommand 0x2#4 d src)) (hl : s.readL src = some l)
    (hdec : decodeLayout s.dlcAbove8 l = .ok f) : step s = .next (s.writeF d f).advance := by
  rw [step_of_command hc hs hw (decodeCommand_encodeCommand_dec d src)]
  simp only [exec, execDec, decSlot, hl, hdec]

/-- The two commands of RT: ENC packs the frame into the temporary layout slot, and DEC of that slot gives the frame back. -/
theorem runFor_two_of_rt {s : State} {d src t : SlotIdx} {f : Frame} (hc : s.calls = []) (hs : s.status = .running)
    (hw₁ : s.program[s.pc]? = some (encodeCommand 0x1#4 t src))
    (hw₂ : s.program[s.pc + 1]? = some (encodeCommand 0x2#4 d t)) (hf : s.readF src = some f) (hwf : f.wf = true) :
    runFor 2 s = .next ((s.drawn.writeL t (f.pack (Config.padDraw s.draws))).advance.writeF d f).advance := by
  have henc := step_of_enc hc hs hw₁ hf hwf
  have hdec := step_of_dec (s := (s.drawn.writeL t (f.pack (Config.padDraw s.draws))).advance) hc hs hw₂
    (readL_writeL_same s.drawn t _) (decodeLayout_pack hwf _ _)
  rw [runFor_succ henc, runFor_succ hdec, runFor_zero]

/-- Settles O58: the slots of the state that RT's two commands leave. -/
theorem roundTripPseudoInstruction : Obligations.RoundTripPseudoInstruction := by
  rintro a b c d src t s f w₁ w₂ rfl rfl rfl hasm hc hs hw₁ hw₂ hf hwf
  rw [assembleLine_rt] at hasm
  cases hasm
  refine ⟨_, runFor_two_of_rt hc hs hw₁ hw₂ hf ((wf_iff_wellFormed f).2 hwf), readF_writeF_same _ d f, rfl, hs,
    ⟨Config.padDraw s.draws, ?_⟩, fun j hj => readF_writeF_of_ne _ f hj.symm, fun j hj => readL_writeL_of_ne s.drawn _ hj.symm⟩
  rw [← pack_eq_encoding hwf]
  exact readL_writeL_same s.drawn t _

end Machine
end Sys2Proof
end

section
/-! SUPPORT. ENCODE in plain numbers (spec/40_encode.md): its first defect (R64, R65), the four formats at the port (R67 to R70), the
lanes and zero bits of an encoding (R66, R57), and ENC (R72); and with them the statements of that file. -/

namespace Sys2Proof

/-! ### The zero bits of an encoding (R57) -/

/-- IDE and RTR are the only flags: every bit above them is clear. -/
theorem flags_getLsbD (k : Kind) (rtr : Bool) {i : Nat} (hi : 3 ≤ i) : (ideBits k ||| rtrBits rtr).getLsbD i = false :=
  Nat.testBit_lt_two_pow (lt_of_lt_of_le (flags_low k rtr) (Nat.pow_le_pow_right (by omega) hi))

theorem packW0_std_getLsbD (v : Nat) (rtr : Bool) {i : Nat} (hlo : 3 ≤ i) (hhi : i < 21) :
    (packW0 (.std v) rtr).getLsbD i = false := by
  rw [packW0, BitVec.or_assoc, BitVec.getLsbD_or, flags_getLsbD _ _ hlo]
  simp [idBits, hhi]

theorem packW1_getLsbD (dlc : Nat) {i : Nat} (hi : 4 ≤ i) : (packW1 dlc).getLsbD i = false := by
  rw [packW1, BitVec.getLsbD_setWidth, BitVec.getLsbD_of_ge _ i hi, Bool.and_false]

/-! ### The lanes of an encoding (R36, R66) -/

/-- A lane in plain numbers is the lane DECODE reads. -/
theorem laneAt_eq_lanes (l : Layout) (i : Fin 8) : Stated.laneAt l i.val = l.lanes[i.val] := by
  fin_cases i <;> simp [Stated.laneAt, Layout.lanes, BitVec.extractLsb', Nat.shiftRight_eq_div_pow]

theorem laneAt_pack (f : Frame) (pad : Pad) (i : Fin 8) :
    Stated.laneAt (f.pack pad) i.val = laneByte f.payload pad i := by
  simp only [laneAt_eq_lanes, Frame.pack_lanes, List.getElem_map, List.getElem_finRange]
  rfl

namespace Machine

/-! ### ENCODE: the checks in plain numbers, then the layout (R64, R65) -/

theorem idInRange_iff (f : Frame) : f.idInRange = true ↔ Stated.idNumber f.id < Stated.idLimit f.id := by
  cases h : f.id with
  | std v => exact f.idInRange_std v h
  | ext v => exact f.idInRange_ext v h

/-- The model finds the first defect of R23's order: check by check its conditions are the plain ones, and only the decision
procedures of the two sides differ. -/
theorem frameDefect_eq_firstDefect (f : Frame) : frameDefect f = Stated.firstDefect f := by
  simp only [frameDefect, Stated.firstDefect, idInRange_iff, Frame.dlcInRange_iff, Frame.payloadLength_iff,
    Stated.payloadDue, ← Nat.not_lt, ite_not]
  rfl

theorem encodeFrame_of_firstDefect {f : Frame} {d : FrameDefect} (h : Stated.firstDefect f = some d) (pad : Pad) :
    encodeFrame f pad = .fault (.frameInvariantViolation d f) :=
  encodeFrame_of_defect ((frameDefect_eq_firstDefect f).trans h) pad

theorem encodeFrame_of_wellFormed {f : Frame} (h : Stated.WellFormed f) (pad : Pad) :
    encodeFrame f pad = .ok (Stated.encoding f pad) := by
  rw [encodeFrame_of_wf ((wf_iff_wellFormed f).2 h), pack_eq_encoding h]

/-- Settles O20: the first defect is the fault's, and a frame without one is packed. -/
theorem encodeOperation : Obligations.EncodeOperation := fun _ pad =>
  ⟨fun _ h => encodeFrame_of_firstDefect h pad, fun h => encodeFrame_of_wellFormed h pad⟩

/-! ### The four formats at the port (R67 to R70) -/

theorem exec_encodeRow_of_firstDefect {f : Frame} {d : FrameDefect} (h : Stated.firstDefect f = some d) (pad : Pad)
    (s : State) : exec (encodeRow f pad) s =
      .next { s with encodeOut := some (.fault (.frameInvariantViolation d f)) } := by
  rw [exec_encodeRow, evalEncodePort, encodeFrame_of_firstDefect h]

theorem encoding_stdData (v dlc : Nat) (payload : List Byte) (pad : Pad) :
    Stated.encoding ⟨.std v, false, dlc, payload⟩ pad = Stated.layoutOf (v * 2 ^ 21) dlc payload pad := by
  simp [Stated.encoding, Stated.idWord]

theorem encoding_stdRemote (v dlc : Nat) (payload : List Byte) (pad : Pad) :
    Stated.encoding ⟨.std v, true, dlc, payload⟩ pad = Stated.layoutOf (v * 2 ^ 21 + 2) dlc payload pad := by
  simp [Stated.encoding, Stated.idWord]

theorem encoding_extData (v dlc : Nat) (payload : List Byte) (pad : Pad) :
    Stated.encoding ⟨.ext v, false, dlc, payload⟩ pad = Stated.layoutOf (v * 2 ^ 3 + 4) dlc payload pad := by
  simp [Stated.encoding, Stated.idWord]

theorem encoding_extRemote (v dlc : Nat) (payload : List Byte) (pad : Pad) :
    Stated.encoding ⟨.ext v, true, dlc, payload⟩ pad = Stated.layoutOf (v * 2 ^ 3 + 6) dlc payload pad := by
  simp [Stated.encoding, Stated.idWord]

/-- A port evaluation of a well-formed frame answers its encoding, whose ID word has the frame's fixed bits (R56). -/
theorem exec_encodeRow_completes {f : Frame} {pad : Pad} {l : Layout} {mask bits : Word32} (h : Stated.WellFormed f)
    (hl : Stated.encoding f pad = l) (hbits : packW0 f.id f.rtr &&& mask = bits) (s : State) :
    exec (encodeRow f pad) s = .next { s with encodeOut := some (.ok l) } ∧ l.w0 &&& mask = bits := by
  subst hl
  exact ⟨by rw [exec_encodeRow, evalEncodePort, encodeFrame_of_wellFormed h], by rwa [← pack_eq_encoding h]⟩

/-- Settles O21: the row of a standard data frame, whose ID word has all bits below the identifier 0. -/
theorem encodeStdDataCompletes : Obligations.EncodeStdDataCompletes := by
  intro v dlc payload pad s
  refine ⟨fun hv hdlc hlen => ?_, fun d hd => exec_encodeRow_of_firstDefect hd pad s⟩
  have hwf : Stated.WellFormed ⟨.std v, false, dlc, payload⟩ := ⟨hv, hdlc, hlen⟩
  exact exec_encodeRow_completes hwf (encoding_stdData v dlc payload pad) (packW0_std_mask v false) s

/-- Settles O22: the row of a standard remote frame, whose payload is empty and whose RTR alone is set below the identifier. -/
theorem encodeStdRemoteCompletes : Obligations.EncodeStdRemoteCompletes := by
  intro v dlc payload pad s
  refine ⟨?_, fun d hd => exec_encodeRow_of_firstDefect hd pad s⟩
  rintro hv hdlc rfl
  have hwf : Stated.WellFormed ⟨.std v, true, dlc, []⟩ := ⟨hv, hdlc, rfl⟩
  exact exec_encodeRow_completes hwf (encoding_stdRemote v dlc [] pad) (packW0_std_mask v true) s

/-- Settles O23: the row of an extended data frame, whose IDE alone is set below the identifier. -/
theorem encodeExtDataCompletes : Obligations.EncodeExtDataCompletes := by
  intro v dlc payload pad s
  refine ⟨fun hv hdlc hlen => ?_, fun d hd => exec_encodeRow_of_firstDefect hd pad s⟩
  have hwf : Stated.WellFormed ⟨.ext v, false, dlc, payload⟩ := ⟨hv, hdlc, hlen⟩
  exact exec_encodeRow_completes hwf (encoding_extData v dlc payload pad) (packW0_ext_mask v false) s

/-- Settles O24: the row of an extended remote frame, whose payload is empty and whose IDE and RTR are set below the identifier. -/
theorem encodeExtRemoteCompletes : Obligations.EncodeExtRemoteCompletes := by
  intro v dlc payload pad s
  refine ⟨?_, fun d hd => exec_encodeRow_of_firstDefect hd pad s⟩
  rintro hv hdlc rfl
  have hwf : Stated.WellFormed ⟨.ext v, true, dlc, []⟩ := ⟨hv, hdlc, rfl⟩
  exact exec_encodeRow_completes hwf (encoding_extRemote v dlc [] pad) (packW0_ext_mask v true) s

/-! ### What fills an encoding (R66, R71) -/

/-- Settles O28: a lane past the payload is the pad's, as every lane of a remote frame is, whose payload is empty. -/
theorem padAndZerosFillTheRest : Obligations.PadAndZerosFillTheRest := by
  intro f pad l h
  obtain ⟨hwf, rfl⟩ := (encodeFrame_eq_ok_iff f pad l).1 h
  have hpad : ∀ i : Fin 8, f.payload.length ≤ i.val → Stated.laneAt (f.pack pad) i.val = pad[i] := fun i hi =>
    (laneAt_pack f pad i).trans (laneByte_of_ge hi pad)
  refine ⟨fun i => ⟨fun hi => (laneAt_pack f pad i).trans (laneByte_of_lt hi pad), hpad i⟩, fun hrtr i => ?_,
    packW0_req f.id f.rtr, fun hk i hlo hhi => ?_, fun i hlo _ => packW1_getLsbD f.dlc hlo⟩
  · obtain ⟨-, -, hlen⟩ := (wf_iff_wellFormed f).1 hwf
    rw [Stated.payloadDue, if_pos hrtr] at hlen
    exact hpad i (by omega)
  · cases hid : f.id with
    | std v => rw [Frame.pack_w0, hid, packW0_std_getLsbD v f.rtr hlo hhi]
    | ext v => rw [hid] at hk; cases hk

/-- Settles O31: the ID word in plain numbers follows the tag, and its IDE is the tag's. -/
theorem kindIsNeverInferred : Obligations.KindIsNeverInferred := by
  refine ⟨fun v rtr dlc payload pad l h => ?_, fun v rtr dlc payload pad l h => ?_⟩ <;>
    obtain ⟨hwf, rfl⟩ := (encodeFrame_eq_ok_iff _ pad l).1 h <;>
    obtain ⟨hid, -, -⟩ := (wf_iff_wellFormed _).1 hwf <;>
    exact ⟨packW0_toNat_eq_idWord hid, packW0_ide _ _⟩

/-! ### ENC (R72) -/

theorem exec_enc (d src : SlotIdx) (s : State) :
    exec (.enc d src) s = .next (encWith (Config.padDraw s.draws) d src s) := rfl

theorem encWith_of_unwritten {s : State} {src : SlotIdx} (hf : s.readF src = none) (pad : Pad) (d : SlotIdx) :
    encWith pad d src s = takeFault (.unwrittenSlot .f src) s := by
  rw [encWith, hf]

theorem encWith_of_fault {s : State} {src : SlotIdx} {f : Frame} {pad : Pad} {r : FaultReason}
    (hf : s.readF src = some f) (he : encodeFrame f pad = .fault r) (d : SlotIdx) :
    encWith pad d src s = takeFault r s.drawn := by
  simp only [encWith, hf, he]

theorem encWith_of_ok {s : State} {src : SlotIdx} {f : Frame} {pad : Pad} {l : Layout}
    (hf : s.readF src = some f) (he : encodeFrame f pad = .ok l) (d : SlotIdx) :
    encWith pad d src s = (s.drawn.writeL d l).advance := by
  simp only [encWith, hf, he]

/-- Settles O16: the source is unwritten, or ENCODE of its frame with the next pad faults or answers. -/
theorem encEncodesIntoSlot : Obligations.EncEncodesIntoSlot := by
  intro d src s
  refine ⟨fun hf => ?_, fun f defect hf hd => ⟨s.draws + 1, ?_⟩, fun f hf hwf => ?_⟩
  · rw [exec_enc, encWith_of_unwritten hf, takeFault]
  · rw [exec_enc, encWith_of_fault hf (encodeFrame_of_firstDefect hd _)]
    rfl
  · rw [exec_enc, encWith_of_ok hf (encodeFrame_of_wellFormed hwf _)]
    rfl

end Machine
end Sys2Proof
end

section
/-! SUPPORT. DECODE in plain numbers (spec/41_decode.md): the data-length mapping (R74), the fields of a layout and the four formats at
the port (R73, R76 to R79), the bits DECODE ignores (R75), the well-formedness of what it gives (R80), and DEC (R82); and with them the
statements of that file. -/

namespace Sys2Proof

/-! ### The fields of a layout in plain numbers (R50 to R53, R36) -/

theorem Layout.stdId_eq_div (l : Layout) : l.stdId = l.w0.toNat / 2 ^ 21 := by
  rw [Layout.stdId, BitVec.extractLsb'_toNat, Nat.shiftRight_eq_div_pow]
  omega

theorem Layout.extId_eq_div (l : Layout) : l.extId = l.w0.toNat / 2 ^ 3 := by
  rw [Layout.extId, BitVec.extractLsb'_toNat, Nat.shiftRight_eq_div_pow]
  omega

theorem Layout.ide_eq_decide (l : Layout) : l.ide = decide (l.w0.toNat / 4 % 2 = 1) :=
  Nat.testBit_eq_decide_div_mod_eq

theorem Layout.rtr_eq_decide (l : Layout) : l.rtr = decide (l.w0.toNat / 2 % 2 = 1) :=
  Nat.testBit_eq_decide_div_mod_eq

theorem Layout.ide_eq_false_iff (l : Layout) : l.ide = false ↔ l.w0.toNat / 4 % 2 = 0 := by
  rw [Layout.ide_eq_decide, decide_eq_false_iff_not]
  omega

theorem Layout.kind_of_ide_false {l : Layout} (h : l.ide = false) : l.kind = .standard := by
  rw [Layout.kind, h]
  rfl

theorem Layout.kind_of_ide_true {l : Layout} (h : l.ide = true) : l.kind = .extended := by
  rw [Layout.kind, h]
  rfl

/-- The identifier DECODE reads, by IDE and in plain numbers. -/
theorem Layout.idAs_kind_eq (l : Layout) :
    l.idAs l.kind = if l.w0.toNat / 4 % 2 = 0 then .std (l.w0.toNat / 2 ^ 21) else .ext (l.w0.toNat / 2 ^ 3) := by
  cases h : l.ide with
  | false => rw [if_pos (l.ide_eq_false_iff.1 h), Layout.kind_of_ide_false h, Layout.idAs, Layout.stdId_eq_div]
  | true =>
    have hne : ¬ l.w0.toNat / 4 % 2 = 0 := fun h0 => by simp [l.ide_eq_false_iff.2 h0] at h
    rw [if_neg hne, Layout.kind_of_ide_true h, Layout.idAs, Layout.extId_eq_div]

/-- The lanes in plain numbers are the lanes DECODE reads. -/
theorem lanesOf_eq_lanes (l : Layout) : Stated.lanesOf l = l.lanes := by
  refine List.ext_getElem rfl fun i _ hi => ?_
  simp only [Stated.lanesOf, List.getElem_map, List.getElem_range]
  exact laneAt_eq_lanes l ⟨i, hi⟩

/-- Layouts that agree on the lanes below `n` have the same first `n` lanes. -/
theorem lanes_take_congr {l m : Layout} {n : Nat} (h : ∀ i, i < n → Stated.laneAt l i = Stated.laneAt m i) :
    l.lanes.take n = m.lanes.take n := by
  rw [← lanesOf_eq_lanes, ← lanesOf_eq_lanes]
  simp only [Stated.lanesOf, ← List.map_take]
  refine List.map_congr_left fun i hi => h i ?_
  rw [List.take_range, List.mem_range] at hi
  omega

/-! ### What DECODE reads is well formed (R80) -/

/-- The identifier fields are as wide as R20 allows, and there are lanes enough for any data-length up to 8. -/
theorem Layout.frameAs_wf (l : Layout) (k : Kind) (rtr : Bool) {n : Nat} (hn : n ≤ 8) : (l.frameAs k rtr n).wf = true := by
  refine (Frame.wf_iff _).2 ⟨?_, (Frame.dlcInRange_iff _).2 hn, (Frame.payloadLength_iff _).2 ?_⟩
  · cases k with
    | standard => exact (Frame.idInRange_std _ _ rfl).2 l.stdId_lt
    | extended => exact (Frame.idInRange_ext _ _ rfl).2 l.extId_lt
  · cases rtr with
    | false => simp [Layout.frameAs, hn]
    | true => rfl

/-! ### Words that agree under a mask (R75) -/

theorem getLsbD_eq_of_and_eq {v w mask : Word32} (h : v &&& mask = w &&& mask) {i : Nat} (hi : mask.getLsbD i = true) :
    v.getLsbD i = w.getLsbD i := by
  simpa [hi] using congrArg (·.getLsbD i) h

theorem extractLsb'_eq_of_and_eq {v w mask : Word32} (h : v &&& mask = w &&& mask) {start len : Nat}
    (hm : mask.extractLsb' start len = BitVec.allOnes len) : v.extractLsb' start len = w.extractLsb' start len := by
  simpa only [BitVec.extractLsb'_and, hm, BitVec.and_allOnes] using congrArg (·.extractLsb' start len) h

theorem readMask_of_ide_false {l : Layout} (h : l.ide = false) : Stated.readMask l.w0 = 0xFFE00006#32 :=
  if_pos (l.ide_eq_false_iff.1 h)

theorem readMask_of_ide_true {l : Layout} (h : l.ide = true) : Stated.readMask l.w0 = 0xFFFFFFFE#32 :=
  if_neg fun h0 => by simp [l.ide_eq_false_iff.2 h0] at h

/-- Layouts that agree on the bits read of the first one's W0 have the same kind, RTR and identifier: the mask keeps IDE, RTR and the
identifier field of that kind. -/
theorem fields_eq_of_readMask {l m : Layout}
    (h : l.w0 &&& Stated.readMask l.w0 = m.w0 &&& Stated.readMask l.w0) :
    l.kind = m.kind ∧ l.rtr = m.rtr ∧ l.idAs l.kind = m.idAs l.kind := by
  cases hide : l.ide with
  | false =>
    rw [readMask_of_ide_false hide] at h
    have hm : m.ide = false := (getLsbD_eq_of_and_eq h (i := 2) rfl).symm.trans hide
    have hid : l.stdId = m.stdId := congrArg BitVec.toNat (extractLsb'_eq_of_and_eq h (start := 21) (len := 11) rfl)
    rw [Layout.kind_of_ide_false hide, Layout.kind_of_ide_false hm]
    exact ⟨rfl, getLsbD_eq_of_and_eq h (i := 1) rfl, congrArg Identifier.std hid⟩
  | true =>
    rw [readMask_of_ide_true hide] at h
    have hm : m.ide = true := (getLsbD_eq_of_and_eq h (i := 2) rfl).symm.trans hide
    have hid : l.extId = m.extId := congrArg BitVec.toNat (extractLsb'_eq_of_and_eq h (start := 3) (len := 29) rfl)
    rw [Layout.kind_of_ide_true hide, Layout.kind_of_ide_true hm]
    exact ⟨rfl, getLsbD_eq_of_and_eq h (i := 1) rfl, congrArg Identifier.ext hid⟩

/-! ### The canonical form of an encoding (R86) -/

/-- A word with no bit outside a mask is left alone by it. -/
theorem and_eq_self_of_and_not_eq_zero {w mask : Word32} (h : w &&& ~~~mask = 0#32) : w &&& mask = w := by
  calc w &&& mask = (w &&& mask) ||| (w &&& ~~~mask) := by rw [h, BitVec.or_zero]
    _ = w := by rw [← BitVec.and_or_distrib_left, BitVec.or_not_self, BitVec.and_allOnes]

/-- The bits canon clears lie below the identifier field, where only IDE and RTR of an encoding can be set. -/
theorem canonW0_packW0 (id : Identifier) (rtr : Bool) : canonW0 (packW0 id rtr) = packW0 id rtr := by
  rw [canonW0, packW0_ide]
  cases id with
  | std v =>
    refine and_eq_self_of_and_not_eq_zero ?_
    rw [show ~~~0xFFE00002#32 = 0x001FFFFF#32 &&& 0x001FFFFD#32 from rfl, ← BitVec.and_assoc, packW0_std_mask]
    cases rtr <;> rfl
  | ext v =>
    refine and_eq_self_of_and_not_eq_zero ?_
    rw [show ~~~0xFFFFFFFE#32 = 0x7#32 &&& 0x1#32 from rfl, ← BitVec.and_assoc, packW0_ext_mask]
    cases rtr <;> rfl

theorem canonW1_packW1 {dlc : Nat} (h : dlc ≤ 8) : canonW1 (packW1 dlc) = packW1 dlc := by
  have hcode : ((packW1 dlc).extractLsb' 0 4).toNat = dlc := by
    simp [packW1]
    omega
  rw [canonW1, hcode, Nat.min_eq_left h, Machine.packW1_of_le h]

theorem Frame.canon_pack {f : Frame} (h : f.wf = true) (pad : Pad) : (f.pack pad).canon = f.pack pad := by
  obtain ⟨-, hdlc, -⟩ := f.wf_iff.1 h
  rw [Layout.canon, Frame.pack_w0, Frame.pack_w1, canonW0_packW0, canonW1_packW1 (f.dlcInRange_iff.1 hdlc)]
  rfl

namespace Machine

/-! ### The port outputs along a step (R80, R86, R93) -/

theorem wf_of_decodeAs {k : Kind} {rtr : Bool} {cfg : DlcAbove8} {l : Layout} {f : Frame}
    (h : decodeAs k rtr cfg l = .ok f) : f.wf = true := by
  obtain ⟨n, hn, rfl⟩ := (decodeAs_eq_ok_iff k rtr cfg l f).1 h
  exact l.frameAs_wf k rtr (dlcMap_le hn)

/-- Sound outputs stay sound where neither they nor the setting change. -/
theorem PortsSound.congr {s t : State} (hs : PortsSound s) (he : t.encodeOut = s.encodeOut)
    (hd : t.decodeOut = s.decodeOut) (hcfg : t.dlcAbove8 = s.dlcAbove8) : PortsSound t := by
  rw [PortsSound, he, hd, hcfg]
  exact hs

theorem PortsSound.evalEncodePort {s : State} (hs : PortsSound s) (f : Frame) (pad : Pad) :
    PortsSound (evalEncodePort f pad s) := by
  obtain ⟨-, hok, hfault⟩ := hs
  refine ⟨fun l h => ?_, hok, hfault⟩
  obtain ⟨hwf, rfl⟩ := (encodeFrame_eq_ok_iff f pad l).1 (Option.some.inj h)
  exact Frame.canon_pack hwf pad

theorem PortsSound.evalDecodePort {s : State} (hs : PortsSound s) (k : Kind) (rtr : Bool) (l : Layout) :
    PortsSound (evalDecodePort k rtr l s) := by
  obtain ⟨henc, -, -⟩ := hs
  refine ⟨henc, fun f h => wf_of_decodeAs (Option.some.inj h), fun r h => ?_⟩
  have hmap := (decodeAs_eq_fault_iff k rtr _ l r).1 (Option.some.inj h)
  exact ((dlcMap_eq_fault_iff _ _ r).1 hmap).1

/-- Neither harness command touches a port. -/
theorem encWith_ports (pad : Pad) (d src : SlotIdx) (s : State) :
    (encWith pad d src s).encodeOut = s.encodeOut ∧ (encWith pad d src s).decodeOut = s.decodeOut := by
  rcases encWith_cases pad d src s with ⟨-, h⟩ | ⟨-, r, -, -, h⟩ | ⟨-, l, -, -, h⟩ <;> (rw [h]; exact ⟨rfl, rfl⟩)

theorem decSlot_ports (d src : SlotIdx) (s : State) :
    (decSlot d src s).encodeOut = s.encodeOut ∧ (decSlot d src s).decodeOut = s.decodeOut := by
  rcases decSlot_cases d src s with ⟨-, h⟩ | ⟨-, r, -, -, h⟩ | ⟨-, f, -, -, h⟩ <;> (rw [h]; exact ⟨rfl, rfl⟩)

/-- A step with no call waiting leaves both ports' outputs. -/
theorem step_ports_of_no_call {s t : State} (hc : s.calls = []) (h : step s = .next t) :
    t.encodeOut = s.encodeOut ∧ t.decodeOut = s.decodeOut := by
  rcases step_cases h with ⟨c, rest, hcons, -⟩ | ⟨-, -, w, -, hend⟩ | ⟨-, -, -, rfl⟩ | ⟨-, -, rfl⟩
  · rw [hc] at hcons; cases hcons
  · rcases hend with ⟨-, rfl⟩ | ⟨-, rfl⟩ | ⟨-, rfl⟩
    · exact encWith_ports _ _ _ s
    · exact decSlot_ports _ _ s
    · exact ⟨rfl, rfl⟩
  · exact ⟨rfl, rfl⟩
  · exact ⟨rfl, rfl⟩

/-- Settles O47: a call sets one port's output, to one in form; any other step leaves both. -/
theorem everyStepKeepsPortsSound : Obligations.EveryStepKeepsPortsSound := by
  intro s t hs h
  cases hc : s.calls with
  | nil =>
    obtain ⟨he, hd⟩ := step_ports_of_no_call hc h
    exact hs.congr he hd (step_dlcAbove8 h)
  | cons c rest =>
    have hs' : PortsSound { s with calls := rest } := hs
    rw [step_of_call hc] at h
    rcases exec_decodeCall_cases c { s with calls := rest } with ⟨f, pad, -, he⟩ | ⟨l, -, he⟩ <;>
      cases he.symm.trans h
    · exact hs'.evalEncodePort f pad
    · exact hs'.evalDecodePort l.kind l.rtr l

/-! ### The data-length mapping in plain numbers (R74) -/

/-- Settles O32. -/
theorem dlcMapClampsOrFaults : Obligations.DlcMapClampsOrFaults := by
  refine ⟨fun cfg raw h => dlcMap_of_le h cfg, fun raw h => ⟨?_, dlcMap_fault h⟩⟩
  rw [dlcMap_clamp, Nat.min_eq_right (by omega)]

theorem dlcMap_of_maps {cfg : DlcAbove8} {l : Layout} (h : Stated.DlcMaps cfg l) :
    dlcMap cfg l.dlcCode = .ok (Stated.mappedDlc l) := by
  rw [Stated.mappedDlc, ← dlcCode_toNat]
  by_cases hle : l.dlcCode.toNat ≤ 8
  · rw [if_pos hle, dlcMap_of_le hle]
  · obtain rfl : cfg = .clamp8 := h.resolve_left (by rwa [← dlcCode_toNat])
    rw [if_neg hle, dlcMap_clamp, Nat.min_eq_right (by omega)]

theorem dlcMap_of_faults {cfg : DlcAbove8} {l : Layout} (h : Stated.DlcFaults cfg l) :
    dlcMap cfg l.dlcCode = .fault (Stated.dlcFault l) := by
  obtain ⟨hraw, rfl⟩ := h
  rw [Stated.dlcFault, ← dlcCode_toNat, BitVec.ofNat_toNat, BitVec.setWidth_eq]
  exact dlcMap_fault (by rwa [dlcCode_toNat])

/-- The two cases of R74 leave none out. -/
theorem dlcMaps_or_dlcFaults (cfg : DlcAbove8) (l : Layout) : Stated.DlcMaps cfg l ∨ Stated.DlcFaults cfg l := by
  cases cfg with
  | clamp8 => exact .inl (.inr rfl)
  | fault => exact (Nat.lt_or_ge 8 (Stated.rawDlc l)).symm.imp .inl fun h => ⟨h, rfl⟩

/-! ### DECODE: the mapping, then the frame (R73) -/

theorem decodeAs_of_maps {cfg : DlcAbove8} {l : Layout} (h : Stated.DlcMaps cfg l) (k : Kind) (rtr : Bool) :
    decodeAs k rtr cfg l = .ok (l.frameAs k rtr (Stated.mappedDlc l)) :=
  (decodeAs_eq_ok_iff k rtr cfg l _).2 ⟨_, dlcMap_of_maps h, rfl⟩

theorem decodeAs_of_faults {cfg : DlcAbove8} {l : Layout} (h : Stated.DlcFaults cfg l) (k : Kind) (rtr : Bool) :
    decodeAs k rtr cfg l = .fault (Stated.dlcFault l) :=
  (decodeAs_eq_fault_iff k rtr cfg l _).2 (dlcMap_of_faults h)

theorem decodeLayout_of_faults {cfg : DlcAbove8} {l : Layout} (h : Stated.DlcFaults cfg l) :
    decodeLayout cfg l = .fault (Stated.dlcFault l) := decodeAs_of_faults h _ _

/-- The frame of a layout, read as its own format, in plain numbers. -/
theorem frameAs_eq_decoding (l : Layout) : l.frameAs l.kind l.rtr (Stated.mappedDlc l) = Stated.decoding l := by
  rw [Layout.frameAs, Stated.decoding, Layout.idAs_kind_eq, Layout.rtr_eq_decide, lanesOf_eq_lanes]
  simp only [decide_eq_true_eq]

theorem decodeLayout_of_maps {cfg : DlcAbove8} {l : Layout} (h : Stated.DlcMaps cfg l) :
    decodeLayout cfg l = .ok (Stated.decoding l) := by
  rw [decodeLayout, decodeAs_of_maps h, frameAs_eq_decoding]

/-- Settles O33. -/
theorem decodeOperation : Obligations.DecodeOperation := fun _ _ => ⟨decodeLayout_of_maps, decodeLayout_of_faults⟩

/-- Settles O39: a data-length the mapping gives is at most 8, and a frame read with such a one is well formed. -/
theorem decodeGivesWellFormedFrames : Obligations.DecodeGivesWellFormedFrames := fun _ _ f h =>
  (wf_iff_wellFormed f).1 (wf_of_decodeAs h)

/-! ### The four formats at the port (R76 to R79) -/

/-- A layout read at the port as a frame of some kind and rtr: that frame or DlcAboveEight is the port's output, and nothing else
changes. -/
theorem evalDecodePort_completes {k : Kind} {rtr : Bool} {l : Layout} {f : Frame}
    (hf : l.frameAs k rtr (Stated.mappedDlc l) = f) (s : State) :
    (Stated.DlcMaps s.dlcAbove8 l → (.next (evalDecodePort k rtr l s) : Host.Outcome State Fault Refusal) =
      .next { s with decodeOut := some (.ok f) }) ∧
    (Stated.DlcFaults s.dlcAbove8 l → (.next (evalDecodePort k rtr l s) : Host.Outcome State Fault Refusal) =
      .next { s with decodeOut := some (.fault (Stated.dlcFault l)) }) := by
  subst hf
  exact ⟨fun h => by rw [evalDecodePort, decodeAs_of_maps h], fun h => by rw [evalDecodePort, decodeAs_of_faults h]⟩

theorem frameAs_stdData (l : Layout) (n : Nat) :
    l.frameAs .standard false n = ⟨.std (l.w0.toNat / 2 ^ 21), false, n, (Stated.lanesOf l).take n⟩ := by
  rw [← Layout.stdId_eq_div, lanesOf_eq_lanes]
  rfl

theorem frameAs_stdRemote (l : Layout) (n : Nat) :
    l.frameAs .standard true n = ⟨.std (l.w0.toNat / 2 ^ 21), true, n, []⟩ := by
  rw [← Layout.stdId_eq_div]
  rfl

theorem frameAs_extData (l : Layout) (n : Nat) :
    l.frameAs .extended false n = ⟨.ext (l.w0.toNat / 2 ^ 3), false, n, (Stated.lanesOf l).take n⟩ := by
  rw [← Layout.extId_eq_div, lanesOf_eq_lanes]
  rfl

theorem frameAs_extRemote (l : Layout) (n : Nat) :
    l.frameAs .extended true n = ⟨.ext (l.w0.toNat / 2 ^ 3), true, n, []⟩ := by
  rw [← Layout.extId_eq_div]
  rfl

/-- Settles O34: the row reads its operand as a standard data frame. -/
theorem decodeStdDataCompletes : Obligations.DecodeStdDataCompletes := fun l s _ =>
  evalDecodePort_completes (frameAs_stdData l _) s

/-- Settles O35: the row reads its operand as a standard remote frame, whose payload is empty. -/
theorem decodeStdRemoteCompletes : Obligations.DecodeStdRemoteCompletes := fun l s _ =>
  evalDecodePort_completes (frameAs_stdRemote l _) s

/-- Settles O36: the row reads its operand as an extended data frame. -/
theorem decodeExtDataCompletes : Obligations.DecodeExtDataCompletes := fun l s _ =>
  evalDecodePort_completes (frameAs_extData l _) s

/-- Settles O37: the row reads its operand as an extended remote frame, whose payload is empty. -/
theorem decodeExtRemoteCompletes : Obligations.DecodeExtRemoteCompletes := fun l s _ =>
  evalDecodePort_completes (frameAs_extRemote l _) s

/-! ### The bits DECODE ignores (R75) -/

/-- Settles O38: of W0 DECODE reads the kind, RTR and the identifier, of W1 the code, and of the lanes those a data frame takes. -/
theorem decodeIgnoresReservedBits : Obligations.DecodeIgnoresReservedBits := by
  intro cfg l m hw0 hraw hlanes
  obtain ⟨hkind, hrtr, hid⟩ := fields_eq_of_readMask hw0
  rcases dlcMaps_or_dlcFaults cfg l with h | h
  · have hm : Stated.DlcMaps cfg m := by rwa [Stated.DlcMaps, ← hraw]
    have hdlc : Stated.mappedDlc l = Stated.mappedDlc m := by rw [Stated.mappedDlc, Stated.mappedDlc, hraw]
    have hpayload : (if l.rtr then [] else l.lanes.take (Stated.mappedDlc l)) =
        if l.rtr then [] else m.lanes.take (Stated.mappedDlc l) := by
      cases hr : l.rtr with
      | false => exact lanes_take_congr (hlanes hr)
      | true => rfl
    rw [decodeLayout, decodeLayout, decodeAs_of_maps h, decodeAs_of_maps hm, ← hkind, ← hrtr, ← hdlc, Layout.frameAs,
      Layout.frameAs, hid, hpayload]
  · have hm : Stated.DlcFaults cfg m := by rwa [Stated.DlcFaults, ← hraw]
    rw [decodeLayout_of_faults h, decodeLayout_of_faults hm, Stated.dlcFault, Stated.dlcFault, hraw]

/-! ### DEC (R82) -/

theorem exec_dec (d src : SlotIdx) (s : State) : exec (.dec d src) s = .next (decSlot d src s) := rfl

theorem decSlot_of_unwritten {s : State} {src : SlotIdx} (hl : s.readL src = none) (d : SlotIdx) :
    decSlot d src s = takeFault (.unwrittenSlot .l src) s := by
  rw [decSlot, hl]

theorem decSlot_of_fault {s : State} {src : SlotIdx} {l : Layout} {r : FaultReason} (hl : s.readL src = some l)
    (hd : decodeLayout s.dlcAbove8 l = .fault r) (d : SlotIdx) : decSlot d src s = takeFault r s := by
  simp only [decSlot, hl, hd]

theorem decSlot_of_ok {s : State} {src : SlotIdx} {l : Layout} {f : Frame} (hl : s.readL src = some l)
    (hd : decodeLayout s.dlcAbove8 l = .ok f) (d : SlotIdx) : decSlot d src s = (s.writeF d f).advance := by
  simp only [decSlot, hl, hd]

/-- Settles O17: the source is unwritten, or DECODE of its layout under the setting faults or answers. -/
theorem decDecodesIntoSlot : Obligations.DecDecodesIntoSlot := by
  intro d src s
  refine ⟨fun hl => ?_, fun l hl h => ?_, fun l hl h => ?_⟩
  · rw [exec_dec, decSlot_of_unwritten hl, takeFault]
  · rw [exec_dec, decSlot_of_fault hl (decodeLayout_of_faults h), takeFault]
  · rw [exec_dec, decSlot_of_ok hl (decodeLayout_of_maps h)]
    rfl

/-! ### The frame slots along a step (R80, R82) -/

theorem FramesWellFormed.congr {s t : State} (hs : FramesWellFormed s) (h : t.fslots = s.fslots) :
    FramesWellFormed t := fun i f hi => hs i f (readF_congr h i ▸ hi)

theorem FramesWellFormed.writeF {s : State} (hs : FramesWellFormed s) (d : SlotIdx) {f : Frame} (hf : f.wf = true) :
    FramesWellFormed (s.writeF d f) := by
  intro i g hi
  by_cases hd : d = i
  · subst hd
    rw [readF_writeF_same] at hi
    exact Option.some.inj hi ▸ hf
  · rw [readF_writeF_of_ne s f hd] at hi
    exact hs i g hi

/-- DEC writes a frame only where DECODE gives one. -/
theorem FramesWellFormed.decSlot {s : State} (hs : FramesWellFormed s) (d src : SlotIdx) :
    FramesWellFormed (decSlot d src s) := by
  rcases decSlot_cases d src s with ⟨-, h⟩ | ⟨-, r, -, -, h⟩ | ⟨l, f, -, hd, h⟩ <;> rw [h]
  · exact hs.congr rfl
  · exact hs.congr rfl
  · exact (hs.writeF d (wf_of_decodeAs hd)).congr rfl

/-- Settles O48: of all a step can do, only DEC writes a frame slot. -/
theorem everyStepKeepsFramesWellFormed : Obligations.EveryStepKeepsFramesWellFormed := by
  intro s t hs h
  rcases step_cases h with ⟨c, rest, -, he⟩ | ⟨-, -, w, -, hend⟩ | ⟨-, -, -, rfl⟩ | ⟨-, -, rfl⟩
  · obtain ⟨-, hf, -⟩ := exec_decodeCall_dlcAbove8_slots he
    exact hs.congr hf
  · rcases hend with ⟨-, rfl⟩ | ⟨-, rfl⟩ | ⟨-, rfl⟩
    · exact hs.congr (encWith_slots _ _ _ s).1
    · exact hs.decSlot _ _
    · exact hs.congr rfl
  · exact hs.congr rfl
  · exact hs

end Machine
end Sys2Proof
end

section
/-! SUPPORT. The laws of the codec (spec/42_laws.md): the round trip (R83) and what follows from it (R84, R85), the canonical form
(R86), the format (R87), ENC under every pad (R90), and the opcode table's reading of a layout; and with them the statements of that
file. -/

namespace Sys2Proof

/-! ### The round trip (R83) and what follows from it (R84, R85) -/

namespace Machine

/-- Settles O41: ENCODE packs a well-formed frame, and the frame packed decodes to itself. -/
theorem decodeOfEncodeIsTheFrame : Obligations.DecodeOfEncodeIsTheFrame := by
  intro f pad cfg h
  have hwf : f.wf = true := (wf_iff_wellFormed f).2 h
  exact ⟨f.pack pad, encodeFrame_of_wf hwf pad, decodeLayout_pack hwf cfg pad⟩

/-- Settles O42: the pad enters an encoding at the lanes past the payload alone. -/
theorem padsFillOnlyPadLanes : Obligations.PadsFillOnlyPadLanes := by
  intro f p q cfg h
  have hwf : f.wf = true := (wf_iff_wellFormed f).2 h
  refine ⟨f.pack p, f.pack q, encodeFrame_of_wf hwf p, encodeFrame_of_wf hwf q, rfl, rfl, fun i hi => ?_, fun i hi => ?_, ?_⟩
  · rw [laneAt_pack, laneAt_pack, laneByte_of_lt hi, laneByte_of_lt hi]
  · rw [laneAt_pack, laneAt_pack, laneByte_of_ge hi, laneByte_of_ge hi]
    exact ⟨rfl, rfl⟩
  · rw [decodeLayout_pack hwf, decodeLayout_pack hwf]

/-- Settles O43: the layout that two frames share decodes to either of them. -/
theorem encodeIsInjective : Obligations.EncodeIsInjective := by
  intro f g p q hf hg h
  have hwf : f.wf = true := (wf_iff_wellFormed f).2 hf
  have hwg : g.wf = true := (wf_iff_wellFormed g).2 hg
  have hpack : f.pack p = g.pack q := by
    rw [encodeFrame_of_wf hwf, encodeFrame_of_wf hwg] at h
    exact PortOut.ok.inj h
  have hdec := decodeLayout_pack hwf .clamp8 p
  rw [hpack, decodeLayout_pack hwg] at hdec
  exact (PortOut.ok.inj hdec).symm

end Machine

/-! ### The format (R87) -/

theorem Frame.pack_format (f : Frame) (pad : Pad) : (f.pack pad).format = Format.of f.id.kind f.rtr := by
  rw [Layout.format, Frame.pack_kind, Frame.pack_rtr]

/-- Settles O45: a packed frame has its kind and rtr, and DECODE reads those of the layout. -/
theorem Machine.formatIsPreserved : Obligations.FormatIsPreserved := by
  refine ⟨fun f pad l h => ?_, fun cfg l f h => ?_⟩
  · obtain ⟨-, rfl⟩ := (encodeFrame_eq_ok_iff f pad l).1 h
    exact f.pack_format pad
  · obtain ⟨n, -, rfl⟩ := (decodeAs_eq_ok_iff _ _ cfg l f).1 h
    rw [Layout.frameAs_id, Layout.idAs_kind, Layout.frameAs_rtr, Layout.format]

/-! ### The canonical form in plain numbers (R86) -/

theorem canonW1_eq_min_rawDlc (l : Layout) : canonW1 l.w1 = BitVec.ofNat 32 (min (Stated.rawDlc l) 8) := by
  rw [← Machine.dlcCode_toNat]
  rfl

theorem canonW0_of_ide_false {l : Layout} (h : l.ide = false) : canonW0 l.w0 = l.w0 &&& 0xFFE00002#32 :=
  if_neg (by rw [← Layout.ide, h]; decide)

theorem canonW0_of_ide_true {l : Layout} (h : l.ide = true) : canonW0 l.w0 = l.w0 &&& 0xFFFFFFFE#32 :=
  if_pos h

theorem canon_eq_canonical (l : Layout) : l.canon = Stated.canonical l := by
  rw [Layout.canon, Stated.canonical, canonW1_eq_min_rawDlc]
  cases h : l.ide with
  | false => rw [canonW0_of_ide_false h, if_pos (l.ide_eq_false_iff.1 h)]
  | true => rw [canonW0_of_ide_true h, if_neg fun h0 => by simp [l.ide_eq_false_iff.2 h0] at h]

/-! ### A decoded layout packed again (R86) -/

theorem rtrBits_rtr (l : Layout) : rtrBits l.rtr = l.w0 &&& 2#32 := by
  rw [show 2#32 = BitVec.twoPow 32 1 from rfl, BitVec.and_twoPow, ← Layout.rtr]
  cases l.rtr <;> rfl

theorem ideBits_kind (l : Layout) : ideBits l.kind = l.w0 &&& 4#32 := by
  rw [show 4#32 = BitVec.twoPow 32 2 from rfl, BitVec.and_twoPow, Layout.kind, ← Layout.ide]
  cases l.ide <;> rfl

/-- The bits of a word from `n` up, cut out and put back, are the word with the bits below `n` cleared. -/
theorem extractLsb'_shiftLeft {width n len : Nat} (w : BitVec width) (h : n + len = width) :
    (w.extractLsb' n len).setWidth width <<< n = w &&& (BitVec.allOnes width <<< n) := by
  ext i hi
  by_cases hn : i < n
  · simp [hn]
  · have hlen : i - n < len := by omega
    have hi' : n + (i - n) = i := by omega
    simp [hn, hlen, hi', BitVec.getLsbD_eq_getElem hi]

theorem idBits_stdId (l : Layout) : idBits (.std l.stdId) = l.w0 &&& 0xFFE00000#32 := by
  rw [idBits, Layout.stdId, BitVec.ofNat_toNat, BitVec.setWidth_eq]
  exact extractLsb'_shiftLeft l.w0 rfl

theorem idBits_extId (l : Layout) : idBits (.ext l.extId) = l.w0 &&& 0xFFFFFFF8#32 := by
  rw [idBits, Layout.extId, BitVec.ofNat_toNat, BitVec.setWidth_eq]
  exact extractLsb'_shiftLeft l.w0 rfl

/-- The fields DECODE reads of W0, packed again, are its canonical form. -/
theorem packW0_idAs_kind (l : Layout) : packW0 (l.idAs l.kind) l.rtr = canonW0 l.w0 := by
  cases h : l.ide with
  | false =>
    have hk := Layout.kind_of_ide_false h
    rw [packW0, Layout.idAs_kind, rtrBits_rtr, hk, Layout.idAs, idBits_stdId, canonW0_of_ide_false h, ideBits, BitVec.or_zero,
      ← BitVec.and_or_distrib_left]
    rfl
  | true =>
    rw [packW0, Layout.idAs_kind, rtrBits_rtr, ideBits_kind, Layout.kind_of_ide_true h, Layout.idAs, idBits_extId,
      canonW0_of_ide_true h, ← BitVec.and_or_distrib_left, ← BitVec.and_or_distrib_left]
    rfl

theorem Layout.padOf_getElem (l : Layout) (i : Fin 8) : l.padOf[i] = l.lanes[i.val] := rfl

/-- A lane of a decoded layout packed with its own pad is the layout's: what the payload leaves out the pad holds. -/
theorem laneByte_frameAs (l : Layout) (k : Kind) (rtr : Bool) (n : Nat) (i : Fin 8) :
    laneByte (l.frameAs k rtr n).payload l.padOf i = l.padOf[i] := by
  by_cases hi : i.val < (l.frameAs k rtr n).payload.length
  · cases rtr with
    | false =>
      rw [laneByte_of_lt hi, Layout.padOf_getElem]
      exact List.getElem_take
    | true => exact absurd hi (Nat.not_lt_zero _)
  · exact laneByte_of_ge (Nat.le_of_not_lt hi) _

/-- A word is its four bytes joined. -/
theorem join_bytes (w : Word32) :
    (w.extractLsb' 24 8 ++ w.extractLsb' 16 8 ++ w.extractLsb' 8 8 ++ w.extractLsb' 0 8 : BitVec 32) = w := by
  apply BitVec.eq_of_toNat_eq
  rw [join_toNat]
  simp only [BitVec.extractLsb'_toNat, Nat.shiftRight_eq_div_pow]
  omega

/-- The data words of a decoded layout packed with its own pad are the layout's. -/
theorem pack_frameAs_data (l : Layout) (k : Kind) (rtr : Bool) (n : Nat) :
    ((l.frameAs k rtr n).pack l.padOf).w2 = l.w2 ∧ ((l.frameAs k rtr n).pack l.padOf).w3 = l.w3 := by
  simp only [Frame.pack_w2, Frame.pack_w3, packW2, packW3, laneByte_frameAs]
  exact ⟨join_bytes l.w2, join_bytes l.w3⟩

/-- The data-length the mapping gives, packed again, is the DT word's canonical form. -/
theorem packW1_mappedDlc (l : Layout) : packW1 (Stated.mappedDlc l) = canonW1 l.w1 := by
  have hmin : Stated.mappedDlc l = min (Stated.rawDlc l) 8 := Nat.min_def.symm
  rw [canonW1_eq_min_rawDlc, hmin, Machine.packW1_of_le (Nat.min_le_right _ 8)]

/-- The frame a layout holds under Clamp8, packed with the layout's own pad, is the layout's canonical form. -/
theorem pack_decoding (l : Layout) : (Stated.decoding l).pack l.padOf = Stated.canonical l := by
  obtain ⟨hw2, hw3⟩ := pack_frameAs_data l l.kind l.rtr (Stated.mappedDlc l)
  rw [← canon_eq_canonical, ← Machine.frameAs_eq_decoding, Layout.canon, ← hw2, ← hw3, ← packW0_idAs_kind,
    ← packW1_mappedDlc]
  rfl

/-! ### Layouts in canonical form (R86) -/

/-- A mask leaves alone the words with no bit outside it. -/
theorem and_eq_self_iff (w mask : Word32) :
    w &&& mask = w ↔ ∀ i, i < 32 → mask.getLsbD i = false → w.getLsbD i = false := by
  constructor
  · intro h i _ hm
    rw [← h, BitVec.getLsbD_and, hm, Bool.and_false]
  · intro h
    refine BitVec.eq_of_getLsbD_eq fun i hi => ?_
    cases hm : mask.getLsbD i with
    | true => rw [BitVec.getLsbD_and, hm, Bool.and_true]
    | false => rw [BitVec.getLsbD_and, hm, Bool.and_false, h i hi hm]

theorem canonW0_eq_self_iff (l : Layout) :
    canonW0 l.w0 = l.w0 ↔
      l.w0.getLsbD 0 = false ∧ (l.w0.getLsbD 2 = false → ∀ i, 3 ≤ i → i < 21 → l.w0.getLsbD i = false) := by
  cases h : l.ide with
  | false =>
    have hmask : ∀ i, i < 32 → ((0xFFE00002#32).getLsbD i = false ↔ i = 0 ∨ i = 2 ∨ 3 ≤ i ∧ i < 21) := by decide
    rw [canonW0_of_ide_false h, and_eq_self_iff]
    constructor
    · intro hw
      exact ⟨hw 0 (by omega) rfl, fun _ i hlo hhi =>
        hw i (by omega) ((hmask i (by omega)).2 (.inr (.inr ⟨hlo, hhi⟩)))⟩
    · rintro ⟨h0, hid⟩ i hi hm
      rcases (hmask i hi).1 hm with rfl | rfl | ⟨hlo, hhi⟩
      · exact h0
      · exact h
      · exact hid h i hlo hhi
  | true =>
    have hmask : ∀ i, i < 32 → ((0xFFFFFFFE#32).getLsbD i = false ↔ i = 0) := by decide
    rw [canonW0_of_ide_true h, and_eq_self_iff]
    constructor
    · intro hw
      exact ⟨hw 0 (by omega) rfl, fun h2 => absurd (h.symm.trans h2) (by decide)⟩
    · rintro ⟨h0, -⟩ i hi hm
      rwa [(hmask i hi).1 hm]

/-- A word with no bit from bit 4 up is a number below 16. -/
theorem toNat_lt_16_iff (w : Word32) : w.toNat < 16 ↔ ∀ i, 4 ≤ i → i < 32 → w.getLsbD i = false := by
  constructor
  · intro h i hi _
    exact Nat.testBit_lt_two_pow (lt_of_lt_of_le h (Nat.pow_le_pow_right (n := 2) (by omega) hi))
  · intro h
    refine Nat.lt_pow_two_of_testBit (n := 4) w.toNat fun i hi => ?_
    by_cases h32 : i < 32
    · exact h i hi h32
    · exact BitVec.getLsbD_of_ge w i (by omega)

theorem canonW1_eq_self_iff (l : Layout) :
    canonW1 l.w1 = l.w1 ↔ (∀ i, 4 ≤ i → i < 32 → l.w1.getLsbD i = false) ∧ Stated.rawDlc l ≤ 8 := by
  rw [canonW1_eq_min_rawDlc, ← toNat_lt_16_iff, ← BitVec.toNat_inj, BitVec.toNat_ofNat, Stated.rawDlc]
  omega

/-- Only the ID and the DT word can keep a layout from being its own canonical form. -/
theorem canonical_eq_self_iff (l : Layout) :
    Stated.canonical l = l ↔ canonW0 l.w0 = l.w0 ∧ canonW1 l.w1 = l.w1 := by
  obtain ⟨w0, w1, w2, w3⟩ := l
  rw [← canon_eq_canonical, Layout.canon, Layout.mk.injEq]
  exact and_congr_right' (and_iff_left ⟨rfl, rfl⟩)

namespace Machine

/-- What DECODE gives under Clamp8 is encoded, with the layout's own pad, as the layout's canonical form. -/
theorem encodeFrame_decoding (l : Layout) : encodeFrame (Stated.decoding l) l.padOf = .ok (Stated.canonical l) := by
  have hdec : decodeLayout .clamp8 l = .ok (Stated.decoding l) := decodeLayout_of_maps (.inr rfl)
  rw [encodeFrame_of_wf (wf_of_decodeAs hdec), pack_decoding]

/-- Settles O44: the canonical form is taken word by word; a layout and the same one with its request bit set show that DECODE is not
injective. -/
theorem reencodingGivesCanonicalForm : Obligations.ReencodingGivesCanonicalForm := by
  refine ⟨fun l => ⟨Stated.decoding l, decodeLayout_of_maps (.inr rfl), encodeFrame_decoding l, ?_⟩,
    fun l i => (l.padOf_getElem i).trans (laneAt_eq_lanes l i).symm, fun l => ?_,
    ⟨⟨0#32, 0#32, 0#32, 0#32⟩, ⟨1#32, 0#32, 0#32, 0#32⟩, by decide, rfl⟩⟩
  · rw [encodeFrame_decoding, PortOut.ok.injEq, eq_comm]
  · rw [eq_comm, canonical_eq_self_iff, canonW0_eq_self_iff, canonW1_eq_self_iff, and_assoc]

/-! ### ENC under every pad (R90) -/

/-- Settles O18: whatever pad is drawn, ENC of a well-formed frame writes its encoding with that pad to the destination alone. -/
theorem encHoldsForEveryPad : Obligations.EncHoldsForEveryPad := by
  refine ⟨exec_enc, fun pad d src s f hf hwf => ⟨_, rfl, ?_⟩⟩
  obtain ⟨hF, hL⟩ := encWith_slots pad d src s
  refine ⟨?_, ?_, hL, fun j => readF_congr hF j⟩ <;> rw [encWith_of_ok hf (encodeFrame_of_wellFormed hwf pad)]
  · exact readL_writeL_same s.drawn d _
  · rfl

/-! ### The opcode table's bits (log 7) -/

theorem fetchedOfTable_command (w : Word16) : fetchedOfTable 16 w.toNat = some (.command w) := by
  rw [fetchedOfTable_16, BitVec.ofNat_toNat, BitVec.setWidth_eq]

theorem ofBits_toBits (l : Layout) : Layout.ofBits (l.toBits % 2 ^ 128) = l := by
  obtain ⟨w0, w1, w2, w3⟩ := l
  rw [Layout.ofBits, Layout.mk.injEq]
  refine ⟨?_, ?_, ?_, ?_⟩ <;> apply BitVec.eq_of_toNat_eq <;>
    simp only [Layout.toBits, BitVec.toNat_ofNat, Nat.shiftRight_eq_div_pow] <;> omega

theorem fetchedOfTable_layout (l : Layout) : fetchedOfTable 128 l.toBits = some (.call (layoutCall l)) := by
  rw [fetchedOfTable, if_neg (by decide), if_pos (by decide), ofBits_toBits]

/-- A packed frame is what the layout holds at its own raw data-length code. -/
theorem frameAs_pack {f : Frame} (h : f.wf = true) (pad : Pad) :
    (f.pack pad).frameAs (f.pack pad).kind (f.pack pad).rtr (f.pack pad).dlcCode.toNat = f := by
  obtain ⟨-, hdlc, -⟩ := f.wf_iff.1 h
  rw [Frame.dlcInRange_iff] at hdlc
  have hcode : (f.pack pad).dlcCode.toNat = f.dlc := by rw [Frame.pack_dlcCode]; omega
  obtain ⟨n, -, hf⟩ := (decodeAs_eq_ok_iff _ _ _ _ _).1 (decodeLayout_pack h .clamp8 pad)
  have hn : f.dlc = n := congrArg Frame.dlc hf
  rw [hcode, hn]
  exact hf.symm

/-- A packed frame stands for the ENCODE call of that frame with the pad its lanes hold. -/
theorem layoutCall_pack {f : Frame} (h : f.wf = true) (pad : Pad) :
    layoutCall (f.pack pad) = .encode f (f.pack pad).padOf := by
  rw [layoutCall, if_pos (Frame.canon_pack h pad), frameAs_pack h]

theorem layoutCall_of_not_canonical {l : Layout} (h : Stated.canonical l ≠ l) : layoutCall l = .decode l :=
  if_neg (canon_eq_canonical l ▸ h)

/-- Settles O8: the table's bits are the command word, or the layout whose call its canonical form decides. -/
theorem tableBitsReadBack : Obligations.TableBitsReadBack := by
  refine ⟨fun d s => ⟨?_, ?_⟩, fun f pad h => ?_, fun l h => ?_⟩ <;> rw [decodeTableWord_eq_some_iff]
  · exact ⟨_, fetchedOfTable_command _, decodeCommand_encodeCommand_enc d s⟩
  · exact ⟨_, fetchedOfTable_command _, decodeCommand_encodeCommand_dec d s⟩
  · have hcall := layoutCall_pack ((wf_iff_wellFormed f).2 h) pad
    rw [pack_eq_encoding h] at hcall
    exact ⟨_, fetchedOfTable_layout _, congrArg (fun c => Except.ok (decodeCall c)) hcall⟩
  · exact ⟨_, fetchedOfTable_layout l, congrArg (fun c => Except.ok (decodeCall c)) (layoutCall_of_not_canonical h)⟩

end Machine
end Sys2Proof
end

section
/-! SUPPORT. Faults and refusals (spec/60_exceptions.md): which check a first defect names (R92, R96), what a faulted or refused step
tells of the state before it (R94, R95, R97), how a stopped harness stays (R98); and with them the statements of that file. -/

namespace Sys2Proof
namespace Machine

/-! ### The inventory (R91) -/

/-- Settles O15. -/
theorem faultCodesMatchInventory : Obligations.FaultCodesMatchInventory :=
  ⟨fun _ _ => rfl, fun _ => rfl, fun _ _ => rfl, fun _ => rfl, rfl, rfl, rfl⟩

/-! ### The first defect, reason by reason (R92, R96) -/

theorem firstDefect_eq_none_iff (f : Frame) : Stated.firstDefect f = none ↔ Stated.WellFormed f := by
  rw [← frameDefect_eq_firstDefect, frameDefect_eq_none_iff, wf_iff_wellFormed]

theorem firstDefect_eq_idOutOfRange_iff (f : Frame) :
    Stated.firstDefect f = some .idOutOfRange ↔ Stated.idLimit f.id ≤ Stated.idNumber f.id := by
  unfold Stated.firstDefect
  split_ifs <;> simp_all

theorem firstDefect_eq_dlcOutOfRange_iff (f : Frame) :
    Stated.firstDefect f = some .dlcOutOfRange ↔ Stated.idNumber f.id < Stated.idLimit f.id ∧ 8 < f.dlc := by
  unfold Stated.firstDefect
  split_ifs <;> simp_all

theorem firstDefect_eq_payloadLengthMismatch_iff (f : Frame) :
    Stated.firstDefect f = some .payloadLengthMismatch ↔
      Stated.idNumber f.id < Stated.idLimit f.id ∧ f.dlc ≤ 8 ∧ f.payload.length ≠ Stated.payloadDue f := by
  unfold Stated.firstDefect
  split_ifs <;> simp_all

/-- The fault ENCODE answers is that of its own frame's first defect. -/
theorem encodeFrame_eq_violation_iff (f g : Frame) (pad : Pad) (d : FrameDefect) :
    encodeFrame f pad = .fault (.frameInvariantViolation d g) ↔ g = f ∧ Stated.firstDefect f = some d := by
  rw [encodeFrame_eq_fault_iff, frameDefect_eq_firstDefect]
  constructor
  · rintro ⟨_, hd, hr⟩
    cases hr
    exact ⟨rfl, hd⟩
  · rintro ⟨rfl, hd⟩
    exact ⟨d, hd, rfl⟩

/-- Settles O25: a frame that is not well formed has a first defect, and the port's fault names that defect. -/
theorem illFormedFramesAreRejected : Obligations.IllFormedFramesAreRejected := by
  refine ⟨fun f pad s hwf => ?_, fun f g pad s t d h hout => ?_⟩
  · obtain ⟨d, hd⟩ := Option.ne_none_iff_exists'.1 (mt (firstDefect_eq_none_iff f).1 hwf)
    exact ⟨d, hd, exec_encodeRow_of_firstDefect hd pad s⟩
  · cases (exec_encodeRow f pad s).symm.trans h
    obtain ⟨rfl, hd⟩ := (encodeFrame_eq_violation_iff f g pad d).1 (Option.some.inj hout)
    refine ⟨rfl, ?_⟩
    cases d with
    | idOutOfRange => exact (firstDefect_eq_idOutOfRange_iff _).1 hd
    | dlcOutOfRange =>
      obtain ⟨-, hdlc⟩ := (firstDefect_eq_dlcOutOfRange_iff _).1 hd
      exact hdlc
    | payloadLengthMismatch =>
      obtain ⟨-, -, hlen⟩ := (firstDefect_eq_payloadLengthMismatch_iff _).1 hd
      exact hlen

/-! ### The faults of a command, from its source slot (R94, R96) -/

theorem exec_enc_of_unwritten {s : State} {src : SlotIdx} (hf : s.readF src = none) (d : SlotIdx) :
    exec (.enc d src) s = .next (takeFault (.unwrittenSlot .f src) s) := by
  rw [exec_enc, encWith_of_unwritten hf]

theorem exec_enc_of_firstDefect {s : State} {src : SlotIdx} {f : Frame} {defect : FrameDefect}
    (hf : s.readF src = some f) (hd : Stated.firstDefect f = some defect) (d : SlotIdx) :
    exec (.enc d src) s = .next (takeFault (.frameInvariantViolation defect f) s.drawn) := by
  rw [exec_enc, encWith_of_fault hf (encodeFrame_of_firstDefect hd _)]

theorem exec_dec_of_unwritten {s : State} {src : SlotIdx} (hl : s.readL src = none) (d : SlotIdx) :
    exec (.dec d src) s = .next (takeFault (.unwrittenSlot .l src) s) := by
  rw [exec_dec, decSlot_of_unwritten hl]

theorem exec_dec_of_faults {s : State} {src : SlotIdx} {l : Layout} (hl : s.readL src = some l)
    (h : Stated.DlcFaults s.dlcAbove8 l) (d : SlotIdx) :
    exec (.dec d src) s = .next (takeFault (Stated.dlcFault l) s) := by
  rw [exec_dec, decSlot_of_fault hl (decodeLayout_of_faults h)]

/-- The only word a command is refused for is its own. -/
theorem eq_reservedCommand_of_decodeCommand_eq_error {w : Word16} {r : RefuseReason} (h : decodeCommand w = .error r) :
    r = .reservedCommand w := by
  rcases decodeCommand_cases w with hd | hd | hd <;> cases hd.symm.trans h
  rfl

/-- Settles O26: ENCODE's reasons by its frame's first defect, a command's fault by what its source slot holds, and the reserved word
before either. -/
theorem faultPriority : Obligations.FaultPriority := by
  refine ⟨fun f pad hid => ?_, fun f pad hid hdlc => ?_, fun f pad hid hdlc hlen => ?_,
    fun d k s hf => ⟨_, exec_enc_of_unwritten hf d, rfl⟩,
    fun d k s f defect hf hd => ⟨_, exec_enc_of_firstDefect hf hd d, rfl⟩,
    fun d k s hl => ⟨_, exec_dec_of_unwritten hl d, rfl⟩,
    fun d k s l hl h => ⟨_, exec_dec_of_faults hl h d, rfl⟩, fun s w r hc hs hw hd => ?_⟩
  · exact encodeFrame_of_firstDefect ((firstDefect_eq_idOutOfRange_iff f).2 hid) pad
  · exact encodeFrame_of_firstDefect ((firstDefect_eq_dlcOutOfRange_iff f).2 ⟨hid, hdlc⟩) pad
  · exact encodeFrame_of_firstDefect ((firstDefect_eq_payloadLengthMismatch_iff f).2 ⟨hid, hdlc, hlen⟩) pad
  · obtain rfl := eq_reservedCommand_of_decodeCommand_eq_error hd
    exact ⟨_, step_of_reserved hc hs hw hd, rfl⟩

/-! ### What a faulted or refused step tells of the state before it (R97) -/

/-- From s to t the harness has recorded a genuine fault r of the instruction i, with the pc as its place p, and has done nothing
else but perhaps draw a pad (log 3). -/
def FaultTaken (s t : State) (i : Instr) (r : FaultReason) (p : Nat) : Prop :=
  p = s.pc ∧ t = { s with status := .faulted r s.pc, draws := t.draws } ∧ GenuineFault s i r

theorem encWith_faultTaken {pad : Pad} {d src : SlotIdx} {s : State} {r : FaultReason} {p : Nat}
    (hs : s.status = .running) (ht : (encWith pad d src s).status = .faulted r p) :
    FaultTaken s (encWith pad d src s) (.enc d src) r p := by
  rcases encWith_cases pad d src s with ⟨hf, h⟩ | ⟨f, r', hf, he, h⟩ | ⟨f, l, -, -, h⟩ <;> rw [h] at ht ⊢
  · cases ht
    exact ⟨rfl, rfl, d, rfl, hf⟩
  · cases ht
    obtain ⟨defect, hd, rfl⟩ := (encodeFrame_eq_fault_iff f pad _).1 he
    exact ⟨rfl, rfl, d, src, rfl, hf, hd⟩
  · cases hs.symm.trans ht

theorem decSlot_faultTaken {d src : SlotIdx} {s : State} {r : FaultReason} {p : Nat}
    (hs : s.status = .running) (ht : (decSlot d src s).status = .faulted r p) :
    FaultTaken s (decSlot d src s) (.dec d src) r p := by
  rcases decSlot_cases d src s with ⟨hl, h⟩ | ⟨l, r', hl, hd, h⟩ | ⟨l, f, -, -, h⟩ <;> rw [h] at ht ⊢
  · cases ht
    exact ⟨rfl, rfl, d, rfl, hl⟩
  · cases ht
    obtain ⟨hcfg, hraw, rfl⟩ := (dlcMap_eq_fault_iff _ _ _).1 ((decodeAs_eq_fault_iff _ _ _ l _).1 hd)
    exact ⟨rfl, rfl, d, src, l, rfl, hl, rfl, hraw, hcfg⟩
  · cases hs.symm.trans ht

/-- A step that turns a running harness Faulted has taken a genuine fault of the command at the pc. -/
theorem step_faulted {s t : State} {r : FaultReason} {p : Nat} (hs : s.status = .running) (h : step s = .next t)
    (ht : t.status = .faulted r p) :
    ∃ w i, s.program[s.pc]? = some w ∧ decodeCommand w = .ok i ∧ FaultTaken s t i r p := by
  rcases step_cases h with ⟨c, rest, -, he⟩ | ⟨-, -, w, hw, ⟨hd, rfl⟩ | ⟨hd, rfl⟩ | ⟨-, rfl⟩⟩ | ⟨-, -, -, rfl⟩ | ⟨-, hne, -⟩
  · obtain ⟨-, -, hst, -⟩ := exec_decodeCall_runControl he
    cases (hst.trans hs).symm.trans ht
  · exact ⟨w, _, hw, hd, encWith_faultTaken hs ht⟩
  · exact ⟨w, _, hw, hd, decSlot_faultTaken hs ht⟩
  · cases ht
  · cases ht
  · exact absurd hs hne

/-- No ENC ends refused, and neither does a DEC: only a word that does not decode is refused (R95). -/
theorem encWith_status_ne_refused {s : State} (hs : s.status = .running) (pad : Pad) (d src : SlotIdx) (r : RefuseReason)
    (p : Nat) : (encWith pad d src s).status ≠ .refused r p := by
  rcases encWith_cases pad d src s with ⟨-, h⟩ | ⟨_, _, -, -, h⟩ | ⟨_, _, -, -, h⟩ <;> simp [h, hs]

theorem decSlot_status_ne_refused {s : State} (hs : s.status = .running) (d src : SlotIdx) (r : RefuseReason) (p : Nat) :
    (decSlot d src s).status ≠ .refused r p := by
  rcases decSlot_cases d src s with ⟨-, h⟩ | ⟨_, _, -, -, h⟩ | ⟨_, _, -, -, h⟩ <;> simp [h, hs]

/-- A step that turns a running harness Refused has refused the word at the pc, and done nothing else. -/
theorem step_refused {s t : State} {r : RefuseReason} {p : Nat} (hs : s.status = .running) (h : step s = .next t)
    (ht : t.status = .refused r p) :
    p = s.pc ∧ t = takeRefusal r s ∧ ∃ w, s.program[s.pc]? = some w ∧ decodeCommand w = .error r := by
  rcases step_cases h with ⟨c, rest, -, he⟩ | ⟨-, -, w, hw, ⟨-, rfl⟩ | ⟨-, rfl⟩ | ⟨hd, rfl⟩⟩ | ⟨-, -, -, rfl⟩ | ⟨-, hne, -⟩
  · obtain ⟨-, -, hst, -⟩ := exec_decodeCall_runControl he
    cases (hst.trans hs).symm.trans ht
  · exact absurd ht (encWith_status_ne_refused hs _ _ _ r p)
  · exact absurd ht (decSlot_status_ne_refused hs _ _ r p)
  · cases ht
    exact ⟨rfl, rfl, w, hw, hd⟩
  · cases ht
  · exact absurd hs hne

/-- Settles O12: with another op or a nonzero low field the word is neither ENC nor DEC, and the step records the decoder's refusal. -/
theorem reservedCommandIsRefused : Obligations.ReservedCommandIsRefused := by
  intro s w hc hs hw hres
  refine step_of_reserved hc hs hw ?_
  rcases hres with ⟨henc, hdec⟩ | hz
  · exact decodeCommand_of_reserved (fun h => henc h.1) (fun h => hdec h.1)
  · exact decodeCommand_of_reserved (fun h => hz h.2) (fun h => hz h.2)

/-- Settles O14: the harness by what its faulted or refused step tells, the ports by the first defect and the data-length code. -/
theorem faultsAreRecordedAndPrecise : Obligations.FaultsAreRecordedAndPrecise := by
  refine ⟨fun s t r p _ hs h ht => ?_, fun s t r p _ hs h ht => ?_, fun s hc hs => step_of_stopped hc hs,
    fun f pad s d hd => ⟨_, _, exec_encodeRow_of_firstDefect hd pad s, rfl, rfl, rfl, rfl⟩,
    fun l s hl => ⟨_, _, exec_decodeRow l s, congrArg some (decodeAs_of_faults hl _ _), rfl, rfl, rfl⟩⟩
  · obtain ⟨_, _, -, -, hp, hframe, -⟩ := step_faulted hs h ht
    exact ⟨hp, hframe⟩
  · obtain ⟨hp, hframe, -⟩ := step_refused hs h ht
    exact ⟨hp, hframe⟩

/-- Settles O19: the genuine cause of an UnwrittenSlot is an empty slot of the file that its command reads. -/
theorem unwrittenSlotFaults : Obligations.UnwrittenSlotFaults := by
  refine ⟨fun d k s hf => exec_enc_of_unwritten hf d, fun d k s hl => exec_dec_of_unwritten hl d,
    fun s t file k p _ hs h ht => ?_⟩
  obtain ⟨w, i, hw, hdec, -, -, hcause⟩ := step_faulted hs h ht
  cases file with
  | f =>
    obtain ⟨d, rfl, hf⟩ := hcause
    exact ⟨w, d, hw, .inl ⟨rfl, hdec, hf⟩⟩
  | l =>
    obtain ⟨d, rfl, hl⟩ := hcause
    exact ⟨w, d, hw, .inr ⟨rfl, hdec, hl⟩⟩

/-- Settles O52: a genuine fault of the codec needs an ill-formed frame in a slot or the setting Fault. -/
theorem codecNeverFaultsOnSoundOperands : Obligations.CodecNeverFaultsOnSoundOperands := by
  intro s t r p hwf hcfg hs h ht
  obtain ⟨_, _, -, -, -, -, hcause⟩ := step_faulted hs h ht
  cases r with
  | frameInvariantViolation defect f =>
    obtain ⟨_, k, -, hf, hd⟩ := hcause
    cases ((frameDefect_eq_none_iff f).2 (hwf k f hf)).symm.trans hd
  | dlcAboveEight raw =>
    obtain ⟨_, _, _, -, -, -, -, hfault⟩ := hcause
    cases hcfg.symm.trans hfault
  | unwrittenSlot file k => exact ⟨file, k, rfl⟩

/-! ### A stopped harness stays as it stopped (R97, R98) -/

/-- The harness stands in t as it stands in s: what only its commands and its end write. -/
def SameHarness (s t : State) : Prop :=
  t.status = s.status ∧ t.pc = s.pc ∧ t.fslots = s.fslots ∧ t.lslots = s.lslots ∧ t.draws = s.draws

theorem SameHarness.refl (s : State) : SameHarness s s := ⟨rfl, rfl, rfl, rfl, rfl⟩

theorem SameHarness.trans {s t u : State} (h : SameHarness s t) (h' : SameHarness t u) : SameHarness s u := by
  obtain ⟨hst, hpc, hf, hl, hn⟩ := h
  obtain ⟨hst', hpc', hf', hl', hn'⟩ := h'
  exact ⟨hst'.trans hst, hpc'.trans hpc, hf'.trans hf, hl'.trans hl, hn'.trans hn⟩

theorem exec_decodeCall_sameHarness (c : Call) (s : State) :
    ∃ t, exec (decodeCall c) s = .next t ∧ SameHarness s t := by
  rcases exec_decodeCall_cases c s with ⟨f, pad, -, he⟩ | ⟨l, -, he⟩
  · exact ⟨_, he, .refl s⟩
  · exact ⟨_, he, .refl s⟩

/-- A stopped harness serves the oldest call or stays as it is. -/
theorem step_sameHarness_of_stopped {s : State} (hs : s.status ≠ .running) :
    ∃ t, step s = .next t ∧ SameHarness s t := by
  cases hc : s.calls with
  | nil => exact ⟨s, step_of_stopped hc hs, .refl s⟩
  | cons c rest =>
    rw [step_of_call hc]
    exact exec_decodeCall_sameHarness c { s with calls := rest }

/-- Settles O13, by induction on the number of steps. -/
theorem stoppedHarnessIsSticky : Obligations.StoppedHarnessIsSticky := by
  intro n
  induction n with
  | zero => exact fun s _ => ⟨s, runFor_zero s, SameHarness.refl s⟩
  | succ n ih =>
    intro s hs
    obtain ⟨t, hstep, hst⟩ := step_sameHarness_of_stopped hs
    obtain ⟨u, hrun, htu⟩ := ih t (hst.1 ▸ hs)
    exact ⟨u, (runFor_succ hstep n).trans hrun, hst.trans htu⟩

/-! ### Run control stays sound (R30, R91, R95, R97) -/

/-- The cause of a fault lies in the slots and the setting alone. -/
theorem GenuineFault.congr {s t : State} {i : Instr} {r : FaultReason} (h : GenuineFault s i r) (hf : t.fslots = s.fslots)
    (hl : t.lslots = s.lslots) (hcfg : t.dlcAbove8 = s.dlcAbove8) : GenuineFault t i r := by
  rcases r with ⟨defect, f⟩ | raw | ⟨_ | _, k⟩ <;>
    simpa only [GenuineFault, readF_congr hf, readL_congr hl, hcfg] using h

/-- Run control stays sound when a call is served. -/
theorem RunControlSound.exec_decodeCall {s t : State} (hsound : RunControlSound s) {c : Call}
    (h : exec (decodeCall c) s = .next t) : RunControlSound t := by
  obtain ⟨-, hpc, hst, hprog⟩ := exec_decodeCall_runControl h
  obtain ⟨hcfg, hf, hl⟩ := exec_decodeCall_dlcAbove8_slots h
  obtain ⟨hp, hcause⟩ := hsound
  rw [RunControlSound, hpc, hst, hprog]
  refine ⟨hp, ?_⟩
  cases hs : s.status with
  | running => trivial
  | done => simpa only [hs] using hcause
  | faulted r p =>
    rw [hs] at hcause
    obtain ⟨rfl, w, i, hw, hd, hg⟩ := hcause
    exact ⟨rfl, w, i, hw, hd, hg.congr hf hl hcfg⟩
  | refused r p => simpa only [hs] using hcause

/-- The fault just recorded is one the command at the pc raises. -/
theorem RunControlSound.of_faulted {s t : State} {r : FaultReason} {p : Nat} (hp : s.pc ≤ s.program.length)
    (hs : s.status = .running) (h : step s = .next t) (ht : t.status = .faulted r p) : RunControlSound t := by
  obtain ⟨w, i, hw, hd, -, hframe, hg⟩ := step_faulted hs h ht
  rw [hframe]
  exact ⟨hp, rfl, w, i, hw, hd, hg.congr rfl rfl rfl⟩

/-- The refusal just recorded is that of the word at the pc. -/
theorem RunControlSound.of_refused {s t : State} {r : RefuseReason} {p : Nat} (hp : s.pc ≤ s.program.length)
    (hs : s.status = .running) (h : step s = .next t) (ht : t.status = .refused r p) : RunControlSound t := by
  obtain ⟨-, rfl, w, hw, hd⟩ := step_refused hs h ht
  exact ⟨hp, rfl, w, hw, hd⟩

theorem RunControlSound.of_running {s : State} (hp : s.pc ≤ s.program.length) (hs : s.status = .running) :
    RunControlSound s := by
  rw [RunControlSound, hs]
  exact ⟨hp, trivial⟩

/-- Settles O46: a call touches nothing run control rests on, a command advances within the program or records its own fault or
refusal, the end makes the run Done, and a stopped harness stays. -/
theorem everyStepKeepsRunControlSound : Obligations.EveryStepKeepsRunControlSound := by
  intro s t hsound h
  obtain ⟨-, hprog⟩ := step_calls_program h
  have hp : s.pc ≤ s.program.length := hsound.1
  rcases step_runControl_cases h with ⟨hc, -⟩ | ⟨-, hs, hlt, hend⟩ | ⟨-, -, hend, hpc, hst⟩ | ⟨-, -, rfl⟩
  · obtain ⟨c, rest, hcalls⟩ := List.exists_cons_of_ne_nil hc
    rw [step_of_call hcalls] at h
    have hsound' : RunControlSound { s with calls := rest } := hsound
    exact hsound'.exec_decodeCall h
  · rcases hend with ⟨hpc, hst⟩ | ⟨-, ⟨r, hst⟩ | ⟨r, hst⟩⟩
    · exact .of_running (by rwa [hpc, hprog]) (hst.trans hs)
    · exact .of_faulted hp hs h hst
    · exact .of_refused hp hs h hst
  · rw [RunControlSound, hst, hpc, hprog]
    exact ⟨hp, hend⟩
  · exact hsound

end Machine
end Sys2Proof
end

section
/-! SUPPORT. Preemption (spec/70_reset_and_hazards.md): a served call writes a port's output, which no command reads, and reads
nothing that a command or the other port writes; and with it the statement of that file. -/

namespace Sys2Proof
namespace Machine

/-! ### A served call as a function of the state (R28) -/

/-- The state after a call: its port evaluated. -/
def serveCall : Call → State → State
  | .encode f pad, s => evalEncodePort f pad s
  | .decode l, s => evalDecodePort l.kind l.rtr l s

theorem exec_decodeCall (c : Call) (s : State) : exec (decodeCall c) s = .next (serveCall c s) := by
  cases c with
  | encode f pad => exact exec_encodeRow f pad s
  | decode l => exact exec_decodeRow l s

@[simp] theorem serveCall_readF (c : Call) (s : State) (i : SlotIdx) : (serveCall c s).readF i = s.readF i := by
  cases c <;> rfl

@[simp] theorem serveCall_readL (c : Call) (s : State) (i : SlotIdx) : (serveCall c s).readL i = s.readL i := by
  cases c <;> rfl

@[simp] theorem serveCall_draws (c : Call) (s : State) : (serveCall c s).draws = s.draws := by
  cases c <;> rfl

@[simp] theorem serveCall_dlcAbove8 (c : Call) (s : State) : (serveCall c s).dlcAbove8 = s.dlcAbove8 := by
  cases c <;> rfl

/-! ### A call commutes with what a command does to the state (R72, R82, R97) -/

theorem takeFault_serveCall (r : FaultReason) (c : Call) (s : State) :
    takeFault r (serveCall c s) = serveCall c (takeFault r s) := by
  cases c <;> rfl

theorem drawn_serveCall (c : Call) (s : State) : (serveCall c s).drawn = serveCall c s.drawn := by
  cases c <;> rfl

theorem writeF_serveCall (c : Call) (s : State) (i : SlotIdx) (f : Frame) :
    (serveCall c s).writeF i f = serveCall c (s.writeF i f) := by
  cases c <;> rfl

theorem writeL_serveCall (c : Call) (s : State) (i : SlotIdx) (l : Layout) :
    (serveCall c s).writeL i l = serveCall c (s.writeL i l) := by
  cases c <;> rfl

theorem advance_serveCall (c : Call) (s : State) : (serveCall c s).advance = serveCall c s.advance := by
  cases c <;> rfl

/-- ENC ends the same way after a call as before it. -/
theorem encWith_serveCall (pad : Pad) (d src : SlotIdx) (c : Call) (s : State) :
    encWith pad d src (serveCall c s) = serveCall c (encWith pad d src s) := by
  have hread := serveCall_readF c s src
  rcases encWith_cases pad d src s with ⟨hf, h⟩ | ⟨f, r, hf, he, h⟩ | ⟨f, l, hf, he, h⟩ <;> rw [h]
  · rw [encWith_of_unwritten (hread.trans hf), takeFault_serveCall]
  · rw [encWith_of_fault (hread.trans hf) he, drawn_serveCall, takeFault_serveCall]
  · rw [encWith_of_ok (hread.trans hf) he, drawn_serveCall, writeL_serveCall, advance_serveCall]

/-- DEC ends the same way after a call as before it. -/
theorem decSlot_serveCall (d src : SlotIdx) (c : Call) (s : State) :
    decSlot d src (serveCall c s) = serveCall c (decSlot d src s) := by
  have hread := serveCall_readL c s src
  rcases decSlot_cases d src s with ⟨hl, h⟩ | ⟨l, r, hl, hd, h⟩ | ⟨l, f, hl, hd, h⟩ <;> rw [h]
  · rw [decSlot_of_unwritten (hread.trans hl), takeFault_serveCall]
  · rw [decSlot_of_fault (hread.trans hl) (by rwa [serveCall_dlcAbove8]), takeFault_serveCall]
  · rw [decSlot_of_ok (hread.trans hl) (by rwa [serveCall_dlcAbove8]), writeF_serveCall, advance_serveCall]

/-! ### Preemption (R43, R111) -/

/-- The next pad of the oracle is the same on both sides of a call. -/
theorem exec_enc_serveCall (d src : SlotIdx) (c : Call) (s : State) :
    exec (.enc d src) (serveCall c s) = .next (serveCall c (encWith (Config.padDraw s.draws) d src s)) := by
  rw [exec_enc, serveCall_draws, encWith_serveCall]

theorem exec_dec_serveCall (d src : SlotIdx) (c : Call) (s : State) :
    exec (.dec d src) (serveCall c s) = .next (serveCall c (decSlot d src s)) := by
  rw [exec_dec, decSlot_serveCall]

/-- Each port keeps its own output (log 6), and neither reads the other's. -/
theorem serveCall_decode_encode (f : Frame) (pad : Pad) (l : Layout) (s : State) :
    serveCall (.decode l) (serveCall (.encode f pad) s) = serveCall (.encode f pad) (serveCall (.decode l) s) := rfl

/-- Settles O56: in each clause both orders end in one state, because the call commutes with the command or with the other port's
call. -/
theorem preemptionChangesNoResult : Obligations.PreemptionChangesNoResult := by
  refine ⟨fun c d k s => ?_, fun c d k s => ?_, fun f pad l s => ?_⟩
  · exact ⟨_, _, _, exec_decodeCall c s, exec_enc_serveCall d k c s, exec_enc d k s, exec_decodeCall c _⟩
  · exact ⟨_, _, _, exec_decodeCall c s, exec_dec_serveCall d k c s, exec_dec d k s, exec_decodeCall c _⟩
  · refine ⟨_, _, _, exec_decodeCall (.encode f pad) s, exec_decodeCall (.decode l) _, exec_decodeCall (.decode l) s, ?_⟩
    rw [serveCall_decode_encode]
    exact exec_decodeCall (.encode f pad) _

end Machine
end Sys2Proof
end
